-- ==== Sys2Proof/Word.lean ====
section
/-! DEFINITION. The two widths of the block, and the closed enumerations that name its registers, halves, flags and
operand selectors (10_state.md R20 to R24, 30_encoding.md R93, R94). A selector type holds exactly the members an encoding
can select (10_state.md R33; 93_implementation_defined.md U8), so an operand no encoding produces cannot be written. -/

namespace Sys2Proof

/-- An 8-bit datum: a halve or a memory cell. -/
abbrev Byte := BitVec 8

/-- A 16-bit datum: a register or an address. -/
abbrev Word := BitVec 16

/-- The eight 16-bit registers (R20). -/
inductive Reg16 where
  | af | bc | de | hl | ir | ie | sp | pc
deriving DecidableEq, Repr

/-- The eight halves of the combined registers (R21). -/
inductive Half where
  | a | f | b | c | d | e | h | l
deriving DecidableEq, Repr

/-- The four flags of F (R24). -/
inductive Flag where
  | z | n | h | c
deriving DecidableEq, Repr

/-- The selector `r`, `d` or `s` of a primitive: a halve an r8 code can name, so every halve but F (R93). -/
inductive R8 where
  | b | c | d | e | h | l | a
deriving DecidableEq, Repr

/-- The rp selector of `LDrrnn` and `ADDHLrr` (R94). -/
inductive Rp where
  | bc | de | hl | sp
deriving DecidableEq, Repr

/-- The rp2 selector of `PUSHrr` (R94). -/
inductive Rp2 where
  | bc | de | hl | af
deriving DecidableEq, Repr

/-- The selector of `POPrr` without AF, which has a row and a rule of its own, `POPAF` (42_stack.md R182, R183). -/
inductive Pair where
  | bc | de | hl
deriving DecidableEq, Repr

end Sys2Proof
end

