-- ==== Sys2Proof/Machine/Bits.lean ====
section
/-! DEFINITION. Bit-field, byte-order and extension helpers (00_scope.md R5, 10_state.md R21, 20_memory.md R63). -/

namespace Sys2Proof

/-- Bits 15 to 8: the high halve of a register, the byte a 16-bit store puts at `addr + 1` (R21, R64). -/
def hiByte (w : Word) : Byte := w.extractLsb' 8 8

/-- Bits 7 to 0: the low halve of a register, the byte a 16-bit store puts at `addr` (R21, R64). -/
def loByte (w : Word) : Byte := w.extractLsb' 0 8

/-- `hi << 8 | lo` (R22, R63). -/
def joinBytes (hi lo : Byte) : Word := hi ++ lo

/-- `zext_16` (R5). -/
def zext16 (v : Byte) : Word := v.setWidth 16

/-- `sext_8` as the 16-bit pattern that is added `mod 65536` (R5). -/
def sext16 (v : Byte) : Word := v.signExtend 16

/-- A Boolean where a bit of a byte is wanted (R5). -/
def bitByte (b : Bool) : Byte := if b then 1 else 0

end Sys2Proof
end

