-- ==== Sys2Proof/Config.lean ====
section
/-! DEFINITION. The parameters of the block (00_scope.md R4): what the spec fixes for a machine and does not count as
state (R10). The spec leaves no value undefined (93_implementation_defined.md section 1), so there is no free value here. -/

namespace Sys2Proof

/-- Which of the two flag behaviours the machine has (00_scope.md R3): `doc`, as the document is written, or `silicon`,
as is generally known of the chip. -/
inductive FlagProfile where
  | doc | silicon
deriving DecidableEq, Repr

/-- The parameter `InitRegs`: the eight register values at reset (10_state.md R34). -/
structure InitRegs where
  af : Word
  bc : Word
  de : Word
  hl : Word
  ir : Word
  ie : Word
  sp : Word
  pc : Word
deriving DecidableEq, Repr

/-- The profile of `exec` and `step`: the normative default (R3, R4; 92_eei_decisions.md D10). Log entry 3. -/
def Config.flagProfile : FlagProfile := .doc

/-- `InitRegs` of `State.reset`. DESIGN CHOICE (log entry 1), unsafe: the spec leaves `InitRegs` open (R34, D1) and the
model takes zeros. -/
def Config.initRegs : InitRegs :=
  { af := 0, bc := 0, de := 0, hl := 0, ir := 0, ie := 0, sp := 0, pc := 0 }

/-- The preset of 93_implementation_defined.md G9 (70_reset_and_hazards.md R304), informative: one possible `InitRegs`,
which nothing in the model uses. G9 gives no value for IR and IE; they are 0 here (log entry 1). -/
def Config.postBootRegs : InitRegs :=
  { af := 0x01B0, bc := 0x0013, de := 0x00D8, hl := 0x014D, ir := 0, ie := 0, sp := 0xFFFE, pc := 0x0100 }

/-- What a memory cell that the list does not name reads as. DESIGN CHOICE (log entry 2), unsafe: the spec leaves
`InitMem` open (R34, D2). -/
def Config.unlistedByte : Byte := 0x00

end Sys2Proof
end

