-- ==== Sys2Proof/Machine/State.lean ====
section
/-! DEFINITION. The state of the block (10_state.md R20, R31, R32): eight 16-bit registers and one memory, nothing else; the
reasons a step can stop; and the reset state (70_reset_and_hazards.md R300). -/

namespace Sys2Proof.Machine

/-- The memory: cells at strictly rising addresses below 65,536, none holding what an unlisted address reads as. -/
abbrev Memory := List Host.Cell

/-- The canonical form of a memory whose first address is at least `lo`. -/
def Memory.wfFrom (lo : Nat) (m : Memory) : Bool :=
  match m with
  | [] => true
  | (a, v) :: rest => decide (lo ≤ a) && decide (a < 65536) && v != Config.unlistedByte && Memory.wfFrom (a + 1) rest

/-- The canonical form: equal memories are equal lists. -/
def Memory.wf (m : Memory) : Bool := Memory.wfFrom 0 m

/-- The state (R20). AF, BC, DE and HL are each one value whose halves and flags are views of it (R21, R24). -/
structure State where
  /-- Accumulator and flags: A is the high halve, F the low one. -/
  af : Word
  bc : Word
  de : Word
  hl : Word
  /-- The instruction register, inert (R29). -/
  ir : Word
  /-- Interrupt-enable, inert (R30); not the cell at 0xFFFF. -/
  ie : Word
  /-- The stack pointer (R28). -/
  sp : Word
  /-- The program counter: during a step, the address `pc0` of the instruction's first byte (R27). -/
  pc : Word
  /-- The 65,536 memory cells (R31). -/
  mem : Memory
deriving DecidableEq, Repr

/-- The one fault. -/
inductive Fault where
  /-- `IllegalOpcode(op)` (60_exceptions.md R281): raised by the eleven rows of bytes that encode nothing. Safe: the spec
  itself ends the run there and leaves the state unchanged. -/
  | illegalOpcode (op : Byte)
deriving DecidableEq, Repr

/-- The refusals. -/
inductive Refusal where
  /-- An instruction without a meaning yet. Raised by nothing: every row has its meaning. Safe. -/
  | notModelled (mnemonic : String)
  /-- `NotInCore(op)` (60_exceptions.md R282): raised by the rows of one-byte opcodes of SM83 instructions that are not in
  the block. Safe: the spec gives them no meaning and the machine claims nothing about them. -/
  | notInCore (op : Byte)
  /-- `NotInCore(0xCB, op2)` (R282): raised by the rows of RES and SET, and by the prefix row for such an `op2`. Safe, as
  above. -/
  | notInCoreCB (op2 : Byte)
deriving DecidableEq, Repr

/-- The state the environment creates from `InitRegs` and the memory contents `InitMem` (R34, R300). -/
def State.ofInit (r : InitRegs) (m : Memory) : State :=
  { af := r.af, bc := r.bc, de := r.de, hl := r.hl, ir := r.ir, ie := r.ie, sp := r.sp, pc := r.pc, mem := m }

/-- The machine right after reset: `InitRegs` and `InitMem` as log entries 1 and 2 choose them, since the spec leaves both
open (R34). -/
def State.reset : State := State.ofInit Config.initRegs []

end Sys2Proof.Machine
end

