-- ==== Sys2Proof/Machine/Ops.lean ====
section
/-! DEFINITION. The named operations over memory and registers (10_state.md R22 to R27, 20_memory.md R61 to R64). The block
raises no exception and has no return from one (60_exceptions.md R280, R285, R286), so there is no operation that takes an
exception: the two outcomes that are no next state are `illegalOpcode` and `notInCore` below. -/

namespace Sys2Proof.Machine

/-! ## Memory as a list of cells -/

/-- The byte at address `a`: the cell's, or `Config.unlistedByte` where the list names none. The list rises, so the search
stops at the first greater address. -/
def Memory.read (m : Memory) (a : Nat) : Byte :=
  match m with
  | [] => Config.unlistedByte
  | (b, v) :: rest => if a = b then v else if a < b then Config.unlistedByte else Memory.read rest a

/-- The memory with byte `v` at address `a`, in canonical form: a cell that would hold `Config.unlistedByte` is left out.
(`dropWhile` drops nothing where the list rises; with it the law of a read after a write needs no premise on the list.) -/
def Memory.write (m : Memory) (a : Nat) (v : Byte) : Memory :=
  match m with
  | [] => if v = Config.unlistedByte then [] else [(a, v)]
  | (b, w) :: rest =>
    if a < b then
      if v = Config.unlistedByte then (b, w) :: rest else (a, v) :: (b, w) :: rest
    else if a = b then
      if v = Config.unlistedByte then rest.dropWhile (fun c => decide (c.1 ≤ a)) else (a, v) :: rest
    else (b, w) :: Memory.write rest a v

/-! ## Registers, halves and flags -/

/-- `r16[X]` (R23). -/
def State.get16 (s : State) (r : Reg16) : Word :=
  match r with
  | .af => s.af
  | .bc => s.bc
  | .de => s.de
  | .hl => s.hl
  | .ir => s.ir
  | .ie => s.ie
  | .sp => s.sp
  | .pc => s.pc

/-- `r16[X] <- v` (R23). -/
def State.set16 (s : State) (r : Reg16) (v : Word) : State :=
  match r with
  | .af => { s with af := v }
  | .bc => { s with bc := v }
  | .de => { s with de := v }
  | .hl => { s with hl := v }
  | .ir => { s with ir := v }
  | .ie => { s with ie := v }
  | .sp => { s with sp := v }
  | .pc => { s with pc := v }

/-- `r8[X]` (R21, R22). -/
def State.get8 (s : State) (x : Half) : Byte :=
  match x with
  | .a => hiByte s.af
  | .f => loByte s.af
  | .b => hiByte s.bc
  | .c => loByte s.bc
  | .d => hiByte s.de
  | .e => loByte s.de
  | .h => hiByte s.hl
  | .l => loByte s.hl

/-- `r8[X] <- v`: the sibling halve keeps its value (R22). -/
def State.set8 (s : State) (x : Half) (v : Byte) : State :=
  match x with
  | .a => { s with af := joinBytes v (loByte s.af) }
  | .f => { s with af := joinBytes (hiByte s.af) v }
  | .b => { s with bc := joinBytes v (loByte s.bc) }
  | .c => { s with bc := joinBytes (hiByte s.bc) v }
  | .d => { s with de := joinBytes v (loByte s.de) }
  | .e => { s with de := joinBytes (hiByte s.de) v }
  | .h => { s with hl := joinBytes v (loByte s.hl) }
  | .l => { s with hl := joinBytes (hiByte s.hl) v }

/-- The bit of F a flag is (R24, R25). -/
def flagPos (f : Flag) : Nat :=
  match f with
  | .z => 7
  | .n => 6
  | .h => 5
  | .c => 4

/-- The mask in F of a flag (R24). -/
def flagMask (f : Flag) : Byte := 1#8 <<< flagPos f

/-- `flag[f]` (R25). -/
def State.flag (s : State) (f : Flag) : Bool := (s.get8 .f).getLsbD (flagPos f)

/-- `flag[f] <- b`: A and the other seven bits of F keep their values (R25). -/
def State.setFlag (s : State) (f : Flag) (b : Bool) : State :=
  s.set8 .f ((s.get8 .f &&& ~~~flagMask f) ||| (if b then flagMask f else 0))

/-- Bits 3 to 0 of F, which carry no flag (R24, R26). -/
def State.fLow (s : State) : BitVec 4 := (s.get8 .f).extractLsb' 0 4

/-- The end of every instruction: `PC <- (pc0 + length) mod 65536` (R27). -/
def State.advance (s : State) (length : Word) : State := { s with pc := s.pc + length }

/-! ## Memory access -/

/-- `MemRead(addr, 1)` (R61). -/
def State.memRead1 (s : State) (addr : Word) : Byte := Memory.read s.mem addr.toNat

/-- `MemWrite(addr, 1, v)` (R62). -/
def State.memWrite1 (s : State) (addr : Word) (v : Byte) : State :=
  { s with mem := Memory.write s.mem addr.toNat v }

/-- `MemRead(addr, 2)`: little-endian, `addr + 1` wraps (R63). -/
def State.memRead2 (s : State) (addr : Word) : Word := joinBytes (s.memRead1 (addr + 1)) (s.memRead1 addr)

/-- `MemWrite(addr, 2, v)`: little-endian, low byte first, `addr + 1` wraps (R64). -/
def State.memWrite2 (s : State) (addr : Word) (v : Word) : State :=
  (s.memWrite1 addr (loByte v)).memWrite1 (addr + 1) (hiByte v)

/-! ## The outcomes that are no next state -/

/-- `outcome IllegalOpcode(op)` (60_exceptions.md R281): no state changes. -/
def illegalOpcode (op : Byte) : Host.Outcome State Fault Refusal := .fault (.illegalOpcode op)

/-- `outcome NotInCore(op)` (R282): no state changes. -/
def notInCore (op : Byte) : Host.Outcome State Fault Refusal := .refused (.notInCore op)

/-- `outcome NotInCore(0xCB, op2)` (R282): no state changes. -/
def notInCoreCB (op2 : Byte) : Host.Outcome State Fault Refusal := .refused (.notInCoreCB op2)

end Sys2Proof.Machine
end

