-- ==== Sys2Proof/Machine/Flags.lean ====
section
/-! DEFINITION. The ALU primitives (40_alu_primitives.md R130 to R136), the result functions of the rotates and shifts
(46_rotate_shift.md R240), the decimal adjustment (45_flag_accumulator.md R233), and the flag writes of the families. -/

namespace Sys2Proof.Machine

/-- What an ALU primitive returns: `(result, carry, half_carry)` (R130). Never stored (R134). -/
structure Alu (w : Nat) where
  result : BitVec w
  carry : Bool
  half : Bool
deriving DecidableEq, Repr

/-- `add8` (R130). -/
def add8 (a b : Byte) : Alu 8 :=
  { result := BitVec.ofNat 8 (a.toNat + b.toNat)
    carry := decide (a.toNat + b.toNat > 255)
    half := decide ((a &&& 0x0F).toNat + (b &&& 0x0F).toNat > 0x0F) }

/-- `sub8` (R131). -/
def sub8 (a b : Byte) : Alu 8 :=
  { result := a - b
    carry := decide (a.toNat < b.toNat)
    half := decide ((a &&& 0x0F).toNat < (b &&& 0x0F).toNat) }

/-- `add16`: carry out of bit 15, half-carry out of bit 11 (R132). -/
def add16 (a b : Word) : Alu 16 :=
  { result := BitVec.ofNat 16 (a.toNat + b.toNat)
    carry := decide (a.toNat + b.toNat > 0xFFFF)
    half := decide ((a &&& 0x0FFF).toNat + (b &&& 0x0FFF).toNat > 0x0FFF) }

/-- `sub16`, which no instruction uses (R133). -/
def sub16 (a b : Word) : Alu 16 :=
  { result := a - b
    carry := decide (a.toNat < b.toNat)
    half := decide ((a &&& 0x0FFF).toNat < (b &&& 0x0FFF).toNat) }

/-- `adc8`: two additions, their carries and half-carries ORed (R136). -/
def adc8 (a b : Byte) (cin : Bool) : Alu 8 :=
  let r1 := add8 a b
  let r2 := add8 r1.result (bitByte cin)
  { result := r2.result, carry := r1.carry || r2.carry, half := r1.half || r2.half }

/-- `sbc8`: two subtractions, their borrows and half-borrows ORed (R136). -/
def sbc8 (a b : Byte) (cin : Bool) : Alu 8 :=
  let r1 := sub8 a b
  let r2 := sub8 r1.result (bitByte cin)
  { result := r2.result, carry := r1.carry || r2.carry, half := r1.half || r2.half }

/-- Writes Z, N and H; C keeps its value (R25). -/
def State.setZNH (s : State) (z n h : Bool) : State := ((s.setFlag .z z).setFlag .n n).setFlag .h h

/-- Writes all four flags; bits 3 to 0 of F keep their values (R25). -/
def State.setZNHC (s : State) (z n h c : Bool) : State := (s.setZNH z n h).setFlag .c c

/-! ## Rotates, shifts and swap -/

/-- The eight operations, in the order of their numbers in `op2[5:3]` (30_encoding.md R98). -/
inductive RotOp where
  | rlc | rrc | rl | rr | sla | sra | swap | srl
deriving DecidableEq, Repr

/-- The column "result" of R240 (b). -/
def rotResult (op : RotOp) (v : Byte) (cin : Bool) : Byte :=
  match op with
  | .rlc => (v <<< 1) ||| bitByte (v.getLsbD 7)
  | .rrc => (v >>> 1) ||| (bitByte (v.getLsbD 0) <<< 7)
  | .rl => (v <<< 1) ||| bitByte cin
  | .rr => (v >>> 1) ||| (bitByte cin <<< 7)
  | .sla => v <<< 1
  | .sra => (v >>> 1) ||| (v &&& 0x80)
  | .swap => ((v &&& 0x0F) <<< 4) ||| (v >>> 4)
  | .srl => v >>> 1

/-- The column "carry out" of R240 (b): the departing bit. For SLA, SRA and SRL by R240 (c) (log entry 6). -/
def rotCarry (op : RotOp) (v : Byte) : Bool :=
  match op with
  | .rlc | .rl | .sla => v.getLsbD 7
  | .rrc | .rr | .sra | .srl => v.getLsbD 0
  | .swap => false

/-- The flags of the CB-prefixed members. `doc`: C only, and all four for SWAP (R240 (d)); `silicon`: Z from the result,
N = H = 0, C (R240 (e)). -/
def State.rotFlags (s : State) (p : FlagProfile) (op : RotOp) (res : Byte) (cout : Bool) : State :=
  match p, op with
  | _, .swap => s.setZNHC (res == 0) false false false
  | .doc, _ => s.setFlag .c cout
  | .silicon, _ => s.setZNHC (res == 0) false false cout

/-- The flags of RLCA, RRCA, RLA, RRA. `doc`: C only (R240 (d)); `silicon`: Z = N = H = 0 and C (R240 (e)). -/
def State.rotAccFlags (s : State) (p : FlagProfile) (cout : Bool) : State :=
  match p with
  | .doc => s.setFlag .c cout
  | .silicon => s.setZNHC false false false cout

/-- The flags of `ADDHLrr` (43_arithmetic.md R210): under `silicon` Z is not written. -/
def State.addHLFlags (s : State) (p : FlagProfile) (r : Alu 16) : State :=
  let t := ((s.setFlag .n false).setFlag .h r.half).setFlag .c r.carry
  match p with
  | .doc => t.setFlag .z (r.result == 0)
  | .silicon => t

/-! ## Decimal adjustment (R233) -/

/-- The first condition of DAA: the offset gains 0x06. -/
def daaLow (a : Byte) (sub hin : Bool) : Bool := (!sub && decide ((a &&& 0x0F).toNat > 0x09)) || hin

/-- The second condition of DAA: the offset gains 0x60 and C is set. -/
def daaHigh (a : Byte) (sub cin : Bool) : Bool := (!sub && decide (a.toNat > 0x99)) || cin

/-- The offset of DAA, one of 0x00, 0x06, 0x60, 0x66. -/
def daaOffset (a : Byte) (sub hin cin : Bool) : Byte :=
  (if daaLow a sub hin then 0x06 else 0x00) ||| (if daaHigh a sub cin then 0x60 else 0x00)

/-- The accumulator after DAA. -/
def daaResult (a : Byte) (sub hin cin : Bool) : Byte :=
  if sub then a - daaOffset a sub hin cin else a + daaOffset a sub hin cin

end Sys2Proof.Machine
end

