-- ==== Sys2Proof/Machine/Operands.lean ====
section
/-! DEFINITION. The operand forms (30_encoding.md R93 to R95): which halve, register or memory byte a selector names. -/

namespace Sys2Proof

/-- The halve an `r` selector names (R93). -/
def R8.half (r : R8) : Half :=
  match r with
  | .b => .b
  | .c => .c
  | .d => .d
  | .e => .e
  | .h => .h
  | .l => .l
  | .a => .a

/-- The register an rp selector names (R94). -/
def Rp.reg (r : Rp) : Reg16 :=
  match r with
  | .bc => .bc
  | .de => .de
  | .hl => .hl
  | .sp => .sp

/-- The register an rp2 selector names (R94). -/
def Rp2.reg (r : Rp2) : Reg16 :=
  match r with
  | .bc => .bc
  | .de => .de
  | .hl => .hl
  | .af => .af

/-- The register a selector of `POPrr` names (R182). -/
def Pair.reg (r : Pair) : Reg16 :=
  match r with
  | .bc => .bc
  | .de => .de
  | .hl => .hl

namespace Machine

/-- The operand of an `r` or `(HL)` form that is read and may be written (R93): a halve, or the memory byte at HL. -/
inductive Target8 where
  | reg (r : R8)
  | atHL
deriving DecidableEq, Repr

/-- The value of the operand. -/
def State.readTarget (s : State) (t : Target8) : Byte :=
  match t with
  | .reg r => s.get8 r.half
  | .atHL => s.memRead1 s.hl

/-- The operand replaced by `v`. -/
def State.writeTarget (s : State) (t : Target8) (v : Byte) : State :=
  match t with
  | .reg r => s.set8 r.half v
  | .atHL => s.memWrite1 s.hl v

/-- The address of the LDH forms: `0xFF00 + zext_16(v)` (41_load.md R152 to R155; base by D8, log entry 5). -/
def ldhAddr (v : Byte) : Word := 0xFF00 + zext16 v

/-- `(SP + sext_8(n)) mod 65536` (R163, R211). -/
def State.spPlus (s : State) (n : Byte) : Word := s.sp + sext16 n

end Machine

end Sys2Proof
end

