-- ==== Sys2Proof/Machine/Load.lean ====
section
/-! DEFINITION. The load family (41_load.md R140 to R163). -/

namespace Sys2Proof.Machine

/-- `r8[dst] <- v`, then `PC <- pc0 + length`. -/
def loadHalf (dst : R8) (v : Byte) (length : Word) (s : State) : Host.Outcome State Fault Refusal :=
  .next ((s.set8 dst.half v).advance length)

/-- `MemWrite(addr, 1, v)`, then `PC <- pc0 + length`. -/
def storeByte (addr : Word) (v : Byte) (length : Word) (s : State) : Host.Outcome State Fault Refusal :=
  .next ((s.memWrite1 addr v).advance length)

/-- `LDrr` (R141). -/
def execLDrr (dst src : R8) (s : State) : Host.Outcome State Fault Refusal :=
  loadHalf dst (s.get8 src.half) 1 s

/-- `LDrn`, the document's `LDra` (R142; 90_conflicts.md C4, D7). -/
def execLDrn (r : R8) (n : Byte) (s : State) : Host.Outcome State Fault Refusal :=
  loadHalf r n 2 s

/-- `LDrHL` (R143): the address is HL before the write. -/
def execLDrHL (r : R8) (s : State) : Host.Outcome State Fault Refusal :=
  loadHalf r (s.memRead1 s.hl) 1 s

/-- `LDHLr` (R144). -/
def execLDHLr (r : R8) (s : State) : Host.Outcome State Fault Refusal :=
  storeByte s.hl (s.get8 r.half) 1 s

/-- `LDHLn` (R145). -/
def execLDHLn (n : Byte) (s : State) : Host.Outcome State Fault Refusal :=
  storeByte s.hl n 2 s

/-- `LDaBC` (R146). -/
def execLDaBC (s : State) : Host.Outcome State Fault Refusal :=
  loadHalf .a (s.memRead1 s.bc) 1 s

/-- `LDaDE` (R147). -/
def execLDaDE (s : State) : Host.Outcome State Fault Refusal :=
  loadHalf .a (s.memRead1 s.de) 1 s

/-- `LDBCa` (R148). -/
def execLDBCa (s : State) : Host.Outcome State Fault Refusal :=
  storeByte s.bc (s.get8 .a) 1 s

/-- `LDDEa` (R149). -/
def execLDDEa (s : State) : Host.Outcome State Fault Refusal :=
  storeByte s.de (s.get8 .a) 1 s

/-- `LDAnn` (R150). -/
def execLDAnn (nn : Word) (s : State) : Host.Outcome State Fault Refusal :=
  loadHalf .a (s.memRead1 nn) 3 s

/-- `LDnnA` (R151). -/
def execLDnnA (nn : Word) (s : State) : Host.Outcome State Fault Refusal :=
  storeByte nn (s.get8 .a) 3 s

/-- `LDHaC` (R152). -/
def execLDHaC (s : State) : Host.Outcome State Fault Refusal :=
  loadHalf .a (s.memRead1 (ldhAddr (s.get8 .c))) 1 s

/-- `LDHCa` (R153). -/
def execLDHCa (s : State) : Host.Outcome State Fault Refusal :=
  storeByte (ldhAddr (s.get8 .c)) (s.get8 .a) 1 s

/-- `LDHAn` (R154). -/
def execLDHAn (n : Byte) (s : State) : Host.Outcome State Fault Refusal :=
  loadHalf .a (s.memRead1 (ldhAddr n)) 2 s

/-- `LDHnA` (R155). -/
def execLDHnA (n : Byte) (s : State) : Host.Outcome State Fault Refusal :=
  storeByte (ldhAddr n) (s.get8 .a) 2 s

/-- The forms that load A through HL and then change HL by `step` (R140, R156, R157). -/
def loadAThenStepHL (step : Word) (s : State) : Host.Outcome State Fault Refusal :=
  .next (((s.set8 .a (s.memRead1 s.hl)).set16 .hl (s.hl + step)).advance 1)

/-- The forms that store A through HL and then change HL by `step` (R140, R158, R159). -/
def storeAThenStepHL (step : Word) (s : State) : Host.Outcome State Fault Refusal :=
  .next (((s.memWrite1 s.hl (s.get8 .a)).set16 .hl (s.hl + step)).advance 1)

/-- `LDaHLm` (R156): HL is post-decremented `mod 65536`. -/
def execLDaHLm (s : State) : Host.Outcome State Fault Refusal :=
  loadAThenStepHL (-1) s

/-- `LDaHLp` (R157). -/
def execLDaHLp (s : State) : Host.Outcome State Fault Refusal :=
  loadAThenStepHL 1 s

/-- `LDHLam` (R158). -/
def execLDHLam (s : State) : Host.Outcome State Fault Refusal :=
  storeAThenStepHL (-1) s

/-- `LDHLap` (R159). -/
def execLDHLap (s : State) : Host.Outcome State Fault Refusal :=
  storeAThenStepHL 1 s

/-- `LDrrnn` (R160). -/
def execLDrrnn (rr : Rp) (nn : Word) (s : State) : Host.Outcome State Fault Refusal :=
  .next ((s.set16 rr.reg nn).advance 3)

/-- `LDnnSP` (R161). -/
def execLDnnSP (nn : Word) (s : State) : Host.Outcome State Fault Refusal :=
  .next ((s.memWrite2 nn s.sp).advance 3)

/-- `LDSPHL` (R162). -/
def execLDSPHL (s : State) : Host.Outcome State Fault Refusal :=
  .next ((s.set16 .sp s.hl).advance 1)

/-- The signed-offset forms `LDHLSPpe` and `ADDSPpe` (R163, R211): the register takes `SP + sext_8(e)`; Z and N are cleared;
H and C come from `add8` of the low byte of SP and the unsigned byte. -/
def offsetSPInto (dst : Reg16) (e : Byte) (s : State) : Host.Outcome State Fault Refusal :=
  .next (((s.set16 dst (s.spPlus e)).setZNHC false false (add8 (loByte s.sp) e).half (add8 (loByte s.sp) e).carry).advance 2)

/-- `LDHLSPpe` (R163). -/
def execLDHLSPpe (e : Byte) (s : State) : Host.Outcome State Fault Refusal :=
  offsetSPInto .hl e s

end Sys2Proof.Machine
end

