-- ==== Sys2Proof/Machine/Arithmetic.lean ====
section
/-! DEFINITION. The arithmetic family (43_arithmetic.md R190 to R211). -/

namespace Sys2Proof.Machine

/-- The end of a two-operand 8-bit member that keeps its result: A, then Z from the result, N, H and C (R190). -/
def accumulate (r : Alu 8) (n : Bool) (length : Word) (s : State) : Host.Outcome State Fault Refusal :=
  .next (((s.set8 .a r.result).setZNHC (r.result == 0) n r.half r.carry).advance length)

/-- The end of CP: the flags of SUB, A not written (R190). -/
def compareWithA (v : Byte) (length : Word) (s : State) : Host.Outcome State Fault Refusal :=
  let r := sub8 (s.get8 .a) v
  .next ((s.setZNHC (r.result == 0) true r.half r.carry).advance length)

/-- The end of INC and DEC: the operand, then Z, N and H; C is not written (R206 to R209). -/
def stepTarget (t : Target8) (r : Alu 8) (n : Bool) (s : State) : Host.Outcome State Fault Refusal :=
  .next (((s.writeTarget t r.result).setZNH (r.result == 0) n r.half).advance 1)

/-- `ADDr` (R191). -/
def execADDr (r : R8) (s : State) : Host.Outcome State Fault Refusal :=
  accumulate (add8 (s.get8 .a) (s.get8 r.half)) false 1 s

/-- `ADDHL` (R192). -/
def execADDHL (s : State) : Host.Outcome State Fault Refusal :=
  accumulate (add8 (s.get8 .a) (s.memRead1 s.hl)) false 1 s

/-- `ADDn` (R193). -/
def execADDn (n : Byte) (s : State) : Host.Outcome State Fault Refusal :=
  accumulate (add8 (s.get8 .a) n) false 2 s

/-- `ADCr` (R194). -/
def execADCr (r : R8) (s : State) : Host.Outcome State Fault Refusal :=
  accumulate (adc8 (s.get8 .a) (s.get8 r.half) (s.flag .c)) false 1 s

/-- `ADCHL` (R195). -/
def execADCHL (s : State) : Host.Outcome State Fault Refusal :=
  accumulate (adc8 (s.get8 .a) (s.memRead1 s.hl) (s.flag .c)) false 1 s

/-- `ADCn` (R196). -/
def execADCn (n : Byte) (s : State) : Host.Outcome State Fault Refusal :=
  accumulate (adc8 (s.get8 .a) n (s.flag .c)) false 2 s

/-- `SUBr` (R197). -/
def execSUBr (r : R8) (s : State) : Host.Outcome State Fault Refusal :=
  accumulate (sub8 (s.get8 .a) (s.get8 r.half)) true 1 s

/-- `SUBHL` (R198). -/
def execSUBHL (s : State) : Host.Outcome State Fault Refusal :=
  accumulate (sub8 (s.get8 .a) (s.memRead1 s.hl)) true 1 s

/-- `SUBn` (R199). -/
def execSUBn (n : Byte) (s : State) : Host.Outcome State Fault Refusal :=
  accumulate (sub8 (s.get8 .a) n) true 2 s

/-- `SBCr` (R200). -/
def execSBCr (r : R8) (s : State) : Host.Outcome State Fault Refusal :=
  accumulate (sbc8 (s.get8 .a) (s.get8 r.half) (s.flag .c)) true 1 s

/-- `SBCHL` (R201). -/
def execSBCHL (s : State) : Host.Outcome State Fault Refusal :=
  accumulate (sbc8 (s.get8 .a) (s.memRead1 s.hl) (s.flag .c)) true 1 s

/-- `SBCn` (R202). -/
def execSBCn (n : Byte) (s : State) : Host.Outcome State Fault Refusal :=
  accumulate (sbc8 (s.get8 .a) n (s.flag .c)) true 2 s

/-- `CPr` (R203). -/
def execCPr (r : R8) (s : State) : Host.Outcome State Fault Refusal :=
  compareWithA (s.get8 r.half) 1 s

/-- `CPHL` (R204). -/
def execCPHL (s : State) : Host.Outcome State Fault Refusal :=
  compareWithA (s.memRead1 s.hl) 1 s

/-- `CPn` (R205). -/
def execCPn (n : Byte) (s : State) : Host.Outcome State Fault Refusal :=
  compareWithA n 2 s

/-- `INCr` (R206). -/
def execINCr (r : R8) (s : State) : Host.Outcome State Fault Refusal :=
  stepTarget (.reg r) (add8 (s.get8 r.half) 1) false s

/-- `INCHL` (R207). -/
def execINCHL (s : State) : Host.Outcome State Fault Refusal :=
  stepTarget .atHL (add8 (s.memRead1 s.hl) 1) false s

/-- `DECr` (R208). -/
def execDECr (r : R8) (s : State) : Host.Outcome State Fault Refusal :=
  stepTarget (.reg r) (sub8 (s.get8 r.half) 1) true s

/-- `DECHL` (R209). -/
def execDECHL (s : State) : Host.Outcome State Fault Refusal :=
  stepTarget .atHL (sub8 (s.memRead1 s.hl) 1) true s

/-- `ADDHLrr` under a profile (R210). -/
def addHLrrUnder (p : FlagProfile) (rr : Rp) (s : State) : Host.Outcome State Fault Refusal :=
  let r := add16 s.hl (s.get16 rr.reg)
  .next (((s.set16 .hl r.result).addHLFlags p r).advance 1)

/-- `ADDHLrr` (R210; 90_conflicts.md C3, log entry 3). -/
def execADDHLrr (rr : Rp) (s : State) : Host.Outcome State Fault Refusal :=
  addHLrrUnder Config.flagProfile rr s

/-- `ADDSPpe` (R211; 90_conflicts.md C6, D20). -/
def execADDSPpe (e : Byte) (s : State) : Host.Outcome State Fault Refusal :=
  offsetSPInto .sp e s

end Sys2Proof.Machine
end

