-- ==== Sys2Proof/Machine/BitTest.lean ====
section
/-! DEFINITION. The bit-test family (47_bit_test.md R270 to R272). -/

namespace Sys2Proof.Machine

/-- `flag[Z] <- (v[b] = 0)`, N cleared, H set; C, the operand and memory untouched (R270). -/
def testBit (b : BitVec 3) (v : Byte) (s : State) : Host.Outcome State Fault Refusal :=
  .next ((s.setZNH (!v.getLsbD b.toNat) false true).advance 2)

/-- `BITbr` (R271). -/
def execBITbr (b : BitVec 3) (r : R8) (s : State) : Host.Outcome State Fault Refusal :=
  testBit b (s.get8 r.half) s

/-- `BITbHL` (R272). -/
def execBITbHL (b : BitVec 3) (s : State) : Host.Outcome State Fault Refusal :=
  testBit b (s.memRead1 s.hl) s

end Sys2Proof.Machine
end

