-- ==== Sys2Proof/Machine/Bitwise.lean ====
section
/-! DEFINITION. The bitwise family (44_bitwise.md R220 to R229). -/

namespace Sys2Proof.Machine

/-- The end of a bitwise member: A, then Z from the result, N and C cleared, H as given (R220). -/
def bitwiseIntoA (res : Byte) (h : Bool) (length : Word) (s : State) : Host.Outcome State Fault Refusal :=
  .next (((s.set8 .a res).setZNHC (res == 0) false h false).advance length)

/-- `ANDr` (R221). -/
def execANDr (r : R8) (s : State) : Host.Outcome State Fault Refusal :=
  bitwiseIntoA (s.get8 .a &&& (s.get8 r.half)) true 1 s

/-- `ANDHL` (R222). -/
def execANDHL (s : State) : Host.Outcome State Fault Refusal :=
  bitwiseIntoA (s.get8 .a &&& (s.memRead1 s.hl)) true 1 s

/-- `ANDn` (R223). -/
def execANDn (n : Byte) (s : State) : Host.Outcome State Fault Refusal :=
  bitwiseIntoA (s.get8 .a &&& n) true 2 s

/-- `ORr` (R224). -/
def execORr (r : R8) (s : State) : Host.Outcome State Fault Refusal :=
  bitwiseIntoA (s.get8 .a ||| (s.get8 r.half)) false 1 s

/-- `ORHL` (R225). -/
def execORHL (s : State) : Host.Outcome State Fault Refusal :=
  bitwiseIntoA (s.get8 .a ||| (s.memRead1 s.hl)) false 1 s

/-- `ORn` (R226). -/
def execORn (n : Byte) (s : State) : Host.Outcome State Fault Refusal :=
  bitwiseIntoA (s.get8 .a ||| n) false 2 s

/-- `XORr` (R227). -/
def execXORr (r : R8) (s : State) : Host.Outcome State Fault Refusal :=
  bitwiseIntoA (s.get8 .a ^^^ (s.get8 r.half)) false 1 s

/-- `XORHL` (R228). -/
def execXORHL (s : State) : Host.Outcome State Fault Refusal :=
  bitwiseIntoA (s.get8 .a ^^^ (s.memRead1 s.hl)) false 1 s

/-- `XORn` (R229). -/
def execXORn (n : Byte) (s : State) : Host.Outcome State Fault Refusal :=
  bitwiseIntoA (s.get8 .a ^^^ n) false 2 s

end Sys2Proof.Machine
end

