-- ==== Sys2Proof/Machine/FlagAccumulator.lean ====
section
/-! DEFINITION. The flag and accumulator family (45_flag_accumulator.md R230 to R234). -/

namespace Sys2Proof.Machine

/-- `CCF` (R231). -/
def execCCF (s : State) : Host.Outcome State Fault Refusal :=
  .next ((((s.setFlag .c (!s.flag .c)).setFlag .n false).setFlag .h false).advance 1)

/-- `SCF` (R232). -/
def execSCF (s : State) : Host.Outcome State Fault Refusal :=
  .next ((((s.setFlag .c true).setFlag .n false).setFlag .h false).advance 1)

/-- `DAA` (R233; 90_conflicts.md C7, D21): C is set when the second condition holds and otherwise not written; N is not
written. -/
def execDAA (s : State) : Host.Outcome State Fault Refusal :=
  let a := s.get8 .a
  let sub := s.flag .n
  let hin := s.flag .h
  let cin := s.flag .c
  let res := daaResult a sub hin cin
  let t := if daaHigh a sub cin then s.setFlag .c true else s
  .next ((((t.set8 .a res).setFlag .z (res == 0)).setFlag .h false).advance 1)

/-- `CPL` (R234): Z is not written. -/
def execCPL (s : State) : Host.Outcome State Fault Refusal :=
  .next ((((s.set8 .a (~~~s.get8 .a)).setFlag .n true).setFlag .h true).advance 1)

end Sys2Proof.Machine
end

