-- ==== Sys2Proof/Machine/Illegal.lean ====
section
/-! DEFINITION. The eleven bytes that encode nothing (30_encoding.md R99): the outcome is `IllegalOpcode(op)`, the one fault,
and no state changes (60_exceptions.md R281). -/

namespace Sys2Proof.Machine

/-- `ILLEGAL_D3`. -/
def execILLEGALD3 (_s : State) : Host.Outcome State Fault Refusal :=
  illegalOpcode 0xD3

/-- `ILLEGAL_DB`. -/
def execILLEGALDB (_s : State) : Host.Outcome State Fault Refusal :=
  illegalOpcode 0xDB

/-- `ILLEGAL_DD`. -/
def execILLEGALDD (_s : State) : Host.Outcome State Fault Refusal :=
  illegalOpcode 0xDD

/-- `ILLEGAL_E3`. -/
def execILLEGALE3 (_s : State) : Host.Outcome State Fault Refusal :=
  illegalOpcode 0xE3

/-- `ILLEGAL_E4`. -/
def execILLEGALE4 (_s : State) : Host.Outcome State Fault Refusal :=
  illegalOpcode 0xE4

/-- `ILLEGAL_EB`. -/
def execILLEGALEB (_s : State) : Host.Outcome State Fault Refusal :=
  illegalOpcode 0xEB

/-- `ILLEGAL_EC`. -/
def execILLEGALEC (_s : State) : Host.Outcome State Fault Refusal :=
  illegalOpcode 0xEC

/-- `ILLEGAL_ED`. -/
def execILLEGALED (_s : State) : Host.Outcome State Fault Refusal :=
  illegalOpcode 0xED

/-- `ILLEGAL_F4`. -/
def execILLEGALF4 (_s : State) : Host.Outcome State Fault Refusal :=
  illegalOpcode 0xF4

/-- `ILLEGAL_FC`. -/
def execILLEGALFC (_s : State) : Host.Outcome State Fault Refusal :=
  illegalOpcode 0xFC

/-- `ILLEGAL_FD`. -/
def execILLEGALFD (_s : State) : Host.Outcome State Fault Refusal :=
  illegalOpcode 0xFD

end Sys2Proof.Machine
end

