-- ==== Sys2Proof/Syntax.lean ====
section
/-! DEFINITION. The instructions: one constructor for each of the 114 rows of spec/opcode_table.json, with the row's operand
fields (30_encoding.md R90 to R98). `n` and `e` are the same raw byte, read as unsigned or as signed by the meaning (R95);
`cc`, `t`, `b` and the `r` of RES and SET are the row's raw bit fields. -/

namespace Sys2Proof

inductive Instr where
  -- Load family (41_load.md)
  /-- `LDrr`: LD r,r', 01dddsss, R141. -/
  | ldrr (dst : R8) (src : R8)
  /-- `LDrn`: LD r,n, 00rrr110, R142. -/
  | ldrn (r : R8) (n : Byte)
  /-- `LDrHL`: LD r,(HL), 01rrr110, R143. -/
  | ldrHL (r : R8)
  /-- `LDHLr`: LD (HL),r, 01110rrr, R144. -/
  | ldHLr (r : R8)
  /-- `LDHLn`: LD (HL),n, 00110110, R145. -/
  | ldHLn (n : Byte)
  /-- `LDaBC`: LD A,(BC), 00001010, R146. -/
  | ldaBC
  /-- `LDaDE`: LD A,(DE), 00011010, R147. -/
  | ldaDE
  /-- `LDBCa`: LD (BC),A, 00000010, R148. -/
  | ldBCa
  /-- `LDDEa`: LD (DE),A, 00010010, R149. -/
  | ldDEa
  /-- `LDAnn`: LD A,(nn), 11111010, R150. -/
  | ldAnn (nn : Word)
  /-- `LDnnA`: LD (nn),A, 11101010, R151. -/
  | ldnnA (nn : Word)
  /-- `LDHaC`: LDH A,(C), 11110010, R152. -/
  | ldhaC
  /-- `LDHCa`: LDH (C),A, 11100010, R153. -/
  | ldhCa
  /-- `LDHAn`: LDH A,(n), 11110000, R154. -/
  | ldhAn (n : Byte)
  /-- `LDHnA`: LDH (n),A, 11100000, R155. -/
  | ldhnA (n : Byte)
  /-- `LDaHLm`: LD A,(HL-), 00111010, R156. -/
  | ldaHLm
  /-- `LDaHLp`: LD A,(HL+), 00101010, R157. -/
  | ldaHLp
  /-- `LDHLam`: LD (HL-),A, 00110010, R158. -/
  | ldHLam
  /-- `LDHLap`: LD (HL+),A, 00100010, R159. -/
  | ldHLap
  /-- `LDrrnn`: LD rr,nn, 00rr0001, R160. -/
  | ldrrnn (rr : Rp) (nn : Word)
  /-- `LDnnSP`: LD (nn),SP, 00001000, R161. -/
  | ldnnSP (nn : Word)
  /-- `LDSPHL`: LD SP,HL, 11111001, R162. -/
  | ldSPHL
  /-- `LDHLSPpe`: LD HL,SP+e, 11111000, R163. -/
  | ldHLSPpe (e : Byte)
  -- Stack family (42_stack.md)
  /-- `PUSHrr`: PUSH rr, 11rr0101, R181. -/
  | pushrr (rr : Rp2)
  /-- `POPrr`: POP rr, 11rr0001, R182. -/
  | poprr (rr : Pair)
  /-- `POPAF`: POP AF, 11110001, R183. -/
  | popAF
  -- Arithmetic family (43_arithmetic.md)
  /-- `ADDr`: ADD A,r, 10000rrr, R191. -/
  | addr (r : R8)
  /-- `ADDHL`: ADD A,(HL), 10000110, R192. -/
  | addHL
  /-- `ADDn`: ADD A,n, 11000110, R193. -/
  | addn (n : Byte)
  /-- `ADCr`: ADC A,r, 10001rrr, R194. -/
  | adcr (r : R8)
  /-- `ADCHL`: ADC A,(HL), 10001110, R195. -/
  | adcHL
  /-- `ADCn`: ADC A,n, 11001110, R196. -/
  | adcn (n : Byte)
  /-- `SUBr`: SUB A,r, 10010rrr, R197. -/
  | subr (r : R8)
  /-- `SUBHL`: SUB A,(HL), 10010110, R198. -/
  | subHL
  /-- `SUBn`: SUB A,n, 11010110, R199. -/
  | subn (n : Byte)
  /-- `SBCr`: SBC A,r, 10011rrr, R200. -/
  | sbcr (r : R8)
  /-- `SBCHL`: SBC A,(HL), 10011110, R201. -/
  | sbcHL
  /-- `SBCn`: SBC A,n, 11011110, R202. -/
  | sbcn (n : Byte)
  /-- `CPr`: CP A,r, 10111rrr, R203. -/
  | cpr (r : R8)
  /-- `CPHL`: CP A,(HL), 10111110, R204. -/
  | cpHL
  /-- `CPn`: CP A,n, 11111110, R205. -/
  | cpn (n : Byte)
  /-- `INCr`: INC r, 00rrr100, R206. -/
  | incr (r : R8)
  /-- `INCHL`: INC (HL), 00110100, R207. -/
  | incHL
  /-- `DECr`: DEC r, 00rrr101, R208. -/
  | decr (r : R8)
  /-- `DECHL`: DEC (HL), 00110101, R209. -/
  | decHL
  /-- `ADDHLrr`: ADD HL,rr, 00rr1001, R210. -/
  | addHLrr (rr : Rp)
  /-- `ADDSPpe`: ADD SP,e, 11101000, R211. -/
  | addSPpe (e : Byte)
  -- Bitwise family (44_bitwise.md)
  /-- `ANDr`: AND A,r, 10100rrr, R221. -/
  | andr (r : R8)
  /-- `ANDHL`: AND A,(HL), 10100110, R222. -/
  | andHL
  /-- `ANDn`: AND A,n, 11100110, R223. -/
  | andn (n : Byte)
  /-- `ORr`: OR A,r, 10110rrr, R224. -/
  | orr (r : R8)
  /-- `ORHL`: OR A,(HL), 10110110, R225. -/
  | orHL
  /-- `ORn`: OR A,n, 11110110, R226. -/
  | orn (n : Byte)
  /-- `XORr`: XOR A,r, 10101rrr, R227. -/
  | xorr (r : R8)
  /-- `XORHL`: XOR A,(HL), 10101110, R228. -/
  | xorHL
  /-- `XORn`: XOR A,n, 11101110, R229. -/
  | xorn (n : Byte)
  -- Flag and accumulator family (45_flag_accumulator.md)
  /-- `CCF`: CCF, 00111111, R231. -/
  | ccf
  /-- `SCF`: SCF, 00110111, R232. -/
  | scf
  /-- `DAA`: DAA, 00100111, R233. -/
  | daa
  /-- `CPL`: CPL, 00101111, R234. -/
  | cpl
  -- Rotate, shift and swap family (46_rotate_shift.md)
  /-- `RLCA`: RLCA, 00000111, R241. -/
  | rlca
  /-- `RRCA`: RRCA, 00001111, R242. -/
  | rrca
  /-- `RLA`: RLA, 00010111, R243. -/
  | rla
  /-- `RRA`: RRA, 00011111, R244. -/
  | rra
  /-- `RLCr`: RLC r, 00000rrr, R245. -/
  | rlcr (r : R8)
  /-- `RLCHL`: RLC (HL), 00000110, R246. -/
  | rlcHL
  /-- `RRCr`: RRC r, 00001rrr, R247. -/
  | rrcr (r : R8)
  /-- `RRCHL`: RRC (HL), 00001110, R248. -/
  | rrcHL
  /-- `RLr`: RL r, 00010rrr, R249. -/
  | rlr (r : R8)
  /-- `RLHL`: RL (HL), 00010110, R250. -/
  | rlHL
  /-- `RRr`: RR r, 00011rrr, R251. -/
  | rrr (r : R8)
  /-- `RRHL`: RR (HL), 00011110, R252. -/
  | rrHL
  /-- `SLAr`: SLA r, 00100rrr, R253. -/
  | slar (r : R8)
  /-- `SLAHL`: SLA (HL), 00100110, R254. -/
  | slaHL
  /-- `SRAr`: SRA r, 00101rrr, R255. -/
  | srar (r : R8)
  /-- `SRAHL`: SRA (HL), 00101110, R256. -/
  | sraHL
  /-- `SRLr`: SRL r, 00111rrr, R257. -/
  | srlr (r : R8)
  /-- `SRLHL`: SRL (HL), 00111110, R258. -/
  | srlHL
  /-- `SWAPr`: SWAP r, 00110rrr, R259. -/
  | swapr (r : R8)
  /-- `SWAPHL`: SWAP (HL), 00110110, R260. -/
  | swapHL
  -- Bit-test family (47_bit_test.md)
  /-- `BITbr`: BIT b,r, 01bbbrrr, R271. -/
  | bitbr (b : BitVec 3) (r : R8)
  /-- `BITbHL`: BIT b,(HL), 01bbb110, R272. -/
  | bitbHL (b : BitVec 3)
  -- The prefix row (30_encoding.md R96)
  /-- `PREFIX_CB`: (prefix; second byte selects a CB row), 11001011, R96. -/
  | prefixCB (op2 : Byte)
  -- SM83 instructions that are not in the block (R100)
  /-- `NOP`: NOP, 00000000, R100. -/
  | nop
  /-- `STOP`: STOP, 00010000, R100. -/
  | stop
  /-- `JRe`: JR e, 00011000, R100. -/
  | jre (e : Byte)
  /-- `JRcce`: JR cc,e, 001cc000, R100. -/
  | jrcce (cc : BitVec 2) (e : Byte)
  /-- `HALT`: HALT, 01110110, R100. -/
  | halt
  /-- `JPnn`: JP nn, 11000011, R100. -/
  | jpnn (nn : Word)
  /-- `JPccnn`: JP cc,nn, 110cc010, R100. -/
  | jpccnn (cc : BitVec 2) (nn : Word)
  /-- `JPHL`: JP HL, 11101001, R100. -/
  | jpHL
  /-- `CALLnn`: CALL nn, 11001101, R100. -/
  | callnn (nn : Word)
  /-- `CALLccnn`: CALL cc,nn, 110cc100, R100. -/
  | callccnn (cc : BitVec 2) (nn : Word)
  /-- `RET`: RET, 11001001, R100. -/
  | ret
  /-- `RETcc`: RET cc, 110cc000, R100. -/
  | retcc (cc : BitVec 2)
  /-- `RETI`: RETI, 11011001, R100. -/
  | reti
  /-- `RSTt`: RST t, 11ttt111, R100. -/
  | rstt (t : BitVec 3)
  /-- `INCrr`: INC rr, 00rr0011, R100. -/
  | incrr (rr : Rp)
  /-- `DECrr`: DEC rr, 00rr1011, R100. -/
  | decrr (rr : Rp)
  /-- `DI`: DI, 11110011, R100. -/
  | di
  /-- `EI`: EI, 11111011, R100. -/
  | ei
  /-- `RESbr`: RES b,r / RES b,(HL), 10bbbrrr, R100. -/
  | resbr (b : BitVec 3) (r : BitVec 3)
  /-- `SETbr`: SET b,r / SET b,(HL), 11bbbrrr, R100. -/
  | setbr (b : BitVec 3) (r : BitVec 3)
  -- Bytes that encode nothing (R99)
  /-- `ILLEGAL_D3`: (none), 11010011, R99. -/
  | illegalD3
  /-- `ILLEGAL_DB`: (none), 11011011, R99. -/
  | illegalDB
  /-- `ILLEGAL_DD`: (none), 11011101, R99. -/
  | illegalDD
  /-- `ILLEGAL_E3`: (none), 11100011, R99. -/
  | illegalE3
  /-- `ILLEGAL_E4`: (none), 11100100, R99. -/
  | illegalE4
  /-- `ILLEGAL_EB`: (none), 11101011, R99. -/
  | illegalEB
  /-- `ILLEGAL_EC`: (none), 11101100, R99. -/
  | illegalEC
  /-- `ILLEGAL_ED`: (none), 11101101, R99. -/
  | illegalED
  /-- `ILLEGAL_F4`: (none), 11110100, R99. -/
  | illegalF4
  /-- `ILLEGAL_FC`: (none), 11111100, R99. -/
  | illegalFC
  /-- `ILLEGAL_FD`: (none), 11111101, R99. -/
  | illegalFD
deriving DecidableEq, Repr

end Sys2Proof
end

