-- ==== Sys2Proof/WellFormed.lean ====
section
/-! DEFINITION. The status of each row of the opcode table (30_encoding.md R97, R98), and which terms of `Instr` are
instructions a decoder can yield. -/

namespace Sys2Proof

/-- The column "status" of the opcode table (R97). -/
inductive RowStatus where
  /-- One of the 81 primitives of the block. -/
  | core
  /-- An SM83 instruction that is not in the block (R100). -/
  | notInCore
  /-- A byte that encodes nothing (R99). -/
  | illegal
  /-- The 0xCB prefix, which is never an instruction by itself (R96, R101). -/
  | prefixRow
deriving DecidableEq, Repr

/-- The status of an instruction's row. -/
def Instr.status (i : Instr) : RowStatus :=
  match i with
  | .ldrr _ _ | .ldrn _ _ | .ldrHL _ | .ldHLr _ | .ldHLn _ | .ldaBC | .ldaDE | .ldBCa | .ldDEa
  | .ldAnn _ | .ldnnA _ | .ldhaC | .ldhCa | .ldhAn _ | .ldhnA _ | .ldaHLm | .ldaHLp | .ldHLam
  | .ldHLap | .ldrrnn _ _ | .ldnnSP _ | .ldSPHL | .ldHLSPpe _ => .core
  | .pushrr _ | .poprr _ | .popAF => .core
  | .addr _ | .addHL | .addn _ | .adcr _ | .adcHL | .adcn _ | .subr _ | .subHL | .subn _ | .sbcr _
  | .sbcHL | .sbcn _ | .cpr _ | .cpHL | .cpn _ | .incr _ | .incHL | .decr _ | .decHL | .addHLrr _
  | .addSPpe _ => .core
  | .andr _ | .andHL | .andn _ | .orr _ | .orHL | .orn _ | .xorr _ | .xorHL | .xorn _ => .core
  | .ccf | .scf | .daa | .cpl => .core
  | .rlca | .rrca | .rla | .rra | .rlcr _ | .rlcHL | .rrcr _ | .rrcHL | .rlr _ | .rlHL | .rrr _
  | .rrHL | .slar _ | .slaHL | .srar _ | .sraHL | .srlr _ | .srlHL | .swapr _ | .swapHL => .core
  | .bitbr _ _ | .bitbHL _ => .core
  | .prefixCB _ => .prefixRow
  | .nop | .stop | .jre _ | .jrcce _ _ | .halt | .jpnn _ | .jpccnn _ _ | .jpHL | .callnn _
  | .callccnn _ _ | .ret | .retcc _ | .reti | .rstt _ | .incrr _ | .decrr _ | .di | .ei | .resbr _ _
  | .setbr _ _ => .notInCore
  | .illegalD3 | .illegalDB | .illegalDD | .illegalE3 | .illegalE4 | .illegalEB | .illegalEC
  | .illegalED | .illegalF4 | .illegalFC | .illegalFD => .illegal

/-- A term is well-formed when the decoder can yield it. The selector types already exclude every operand no encoding
produces (10_state.md R33), so the one check left is the prefix: 0xCB with its `op2` is one instruction, the row that `op2`
selects (R96, R98), and "the prefix is never an instruction by itself" (R101). -/
def Instr.wf (i : Instr) : Bool :=
  i.status != .prefixRow

end Sys2Proof
end

