-- ==== Sys2Proof/Decode.lean ====
section
/-! DEFINITION. The decoder and the encoder (30_encoding.md). Every byte value is the generally known SM83 opcode map, which
the spec adopts (D3) and the model takes from the spec's rules R92 to R98 and R105 (log entry 4). -/

namespace Sys2Proof

/-! ## Fields and selector codes (R92 to R94) -/

/-- `x = op[7:6]`, the major group. -/
def fieldX (op : Byte) : BitVec 2 := op.extractLsb' 6 2

/-- `y = op[5:3]`. -/
def fieldY (op : Byte) : BitVec 3 := op.extractLsb' 3 3

/-- `z = op[2:0]`. -/
def fieldZ (op : Byte) : BitVec 3 := op.extractLsb' 0 3

/-- `p = op[5:4]`. -/
def fieldP (op : Byte) : BitVec 2 := op.extractLsb' 4 2

/-- `q = op[3]`. -/
def fieldQ (op : Byte) : Bool := op.getLsbD 3

/-- `op[4:3]`, the condition code of the `NotInCore` rows that have one (R97). -/
def fieldCC (op : Byte) : BitVec 2 := op.extractLsb' 3 2

/-- The halve an r8 code selects; `none` for code 6, which is the memory byte at HL and no register (R93). -/
def r8OfCode (k : BitVec 3) : Option R8 :=
  match k.toNat with
  | 0 => some .b
  | 1 => some .c
  | 2 => some .d
  | 3 => some .e
  | 4 => some .h
  | 5 => some .l
  | 6 => none
  | _ => some .a

/-- The r8 code of a selector (R93). -/
def R8.code (r : R8) : Byte :=
  match r with
  | .b => 0 | .c => 1 | .d => 2 | .e => 3 | .h => 4 | .l => 5 | .a => 7

/-- The register an rp code selects (R94). -/
def rpOfCode (k : BitVec 2) : Rp :=
  match k.toNat with
  | 0 => .bc
  | 1 => .de
  | 2 => .hl
  | _ => .sp

/-- The rp code of a selector (R94). -/
def Rp.code (r : Rp) : Byte :=
  match r with
  | .bc => 0 | .de => 1 | .hl => 2 | .sp => 3

/-- The register an rp2 code selects (R94). -/
def rp2OfCode (k : BitVec 2) : Rp2 :=
  match k.toNat with
  | 0 => .bc
  | 1 => .de
  | 2 => .hl
  | _ => .af

/-- The rp2 code of a selector of `PUSHrr` (R94). -/
def Rp2.code (r : Rp2) : Byte :=
  match r with
  | .bc => 0 | .de => 1 | .hl => 2 | .af => 3

/-- The rp2 code of a selector of `POPrr`; code 3 is the row `POPAF` (R94, R97). -/
def Pair.code (r : Pair) : Byte :=
  match r with
  | .bc => 0 | .de => 1 | .hl => 2

/-! ## Decoding -/

/-- An instruction whose 3-bit field `k` is an r8 code: `reg r` for a halve, `mem` for code 6, `(HL)` (R93). -/
def byR8 (k : BitVec 3) (reg : R8 → Instr) (mem : Instr) : Instr :=
  match r8OfCode k with
  | some r => reg r
  | none => mem

/-- Bytes 0x00 to 0x3F (R97). -/
def decodeX0 (op n : Byte) (nn : Word) : Instr :=
  match (fieldZ op).toNat with
  | 0 =>
    match (fieldY op).toNat with
    | 0 => .nop
    | 1 => .ldnnSP nn
    | 2 => .stop
    | 3 => .jre n
    | _ => .jrcce (fieldCC op) n
  | 1 => if fieldQ op then .addHLrr (rpOfCode (fieldP op)) else .ldrrnn (rpOfCode (fieldP op)) nn
  | 2 =>
    match (fieldY op).toNat with
    | 0 => .ldBCa
    | 1 => .ldaBC
    | 2 => .ldDEa
    | 3 => .ldaDE
    | 4 => .ldHLap
    | 5 => .ldaHLp
    | 6 => .ldHLam
    | _ => .ldaHLm
  | 3 => if fieldQ op then .decrr (rpOfCode (fieldP op)) else .incrr (rpOfCode (fieldP op))
  | 4 => byR8 (fieldY op) .incr .incHL
  | 5 => byR8 (fieldY op) .decr .decHL
  | 6 => byR8 (fieldY op) (.ldrn · n) (.ldHLn n)
  | _ =>
    match (fieldY op).toNat with
    | 0 => .rlca
    | 1 => .rrca
    | 2 => .rla
    | 3 => .rra
    | 4 => .daa
    | 5 => .cpl
    | 6 => .scf
    | _ => .ccf

/-- Bytes 0x40 to 0x7F: the loads between halves and `(HL)`, and HALT in the hole (R97). -/
def decodeX1 (op : Byte) : Instr :=
  match r8OfCode (fieldY op), r8OfCode (fieldZ op) with
  | some dst, some src => .ldrr dst src
  | some dst, none => .ldrHL dst
  | none, some src => .ldHLr src
  | none, none => .halt

/-- Bytes 0x80 to 0xBF: the accumulator operations on a halve or `(HL)` (R97). -/
def decodeX2 (op : Byte) : Instr :=
  match (fieldY op).toNat with
  | 0 => byR8 (fieldZ op) .addr .addHL
  | 1 => byR8 (fieldZ op) .adcr .adcHL
  | 2 => byR8 (fieldZ op) .subr .subHL
  | 3 => byR8 (fieldZ op) .sbcr .sbcHL
  | 4 => byR8 (fieldZ op) .andr .andHL
  | 5 => byR8 (fieldZ op) .xorr .xorHL
  | 6 => byR8 (fieldZ op) .orr .orHL
  | _ => byR8 (fieldZ op) .cpr .cpHL

/-- The instruction that `op2` after 0xCB selects (R98). -/
def decodeCB (op2 : Byte) : Instr :=
  match (fieldX op2).toNat with
  | 0 =>
    match (fieldY op2).toNat with
    | 0 => byR8 (fieldZ op2) .rlcr .rlcHL
    | 1 => byR8 (fieldZ op2) .rrcr .rrcHL
    | 2 => byR8 (fieldZ op2) .rlr .rlHL
    | 3 => byR8 (fieldZ op2) .rrr .rrHL
    | 4 => byR8 (fieldZ op2) .slar .slaHL
    | 5 => byR8 (fieldZ op2) .srar .sraHL
    | 6 => byR8 (fieldZ op2) .swapr .swapHL
    | _ => byR8 (fieldZ op2) .srlr .srlHL
  | 1 => byR8 (fieldZ op2) (.bitbr (fieldY op2)) (.bitbHL (fieldY op2))
  | 2 => .resbr (fieldY op2) (fieldZ op2)
  | _ => .setbr (fieldY op2) (fieldZ op2)

/-- Bytes 0xC0 to 0xFF (R97, R99). -/
def decodeX3 (op n : Byte) (nn : Word) : Instr :=
  match (fieldZ op).toNat with
  | 0 =>
    match (fieldY op).toNat with
    | 4 => .ldhnA n
    | 5 => .addSPpe n
    | 6 => .ldhAn n
    | 7 => .ldHLSPpe n
    | _ => .retcc (fieldCC op)
  | 1 =>
    match (fieldY op).toNat with
    | 0 => .poprr .bc
    | 1 => .ret
    | 2 => .poprr .de
    | 3 => .reti
    | 4 => .poprr .hl
    | 5 => .jpHL
    | 6 => .popAF
    | _ => .ldSPHL
  | 2 =>
    match (fieldY op).toNat with
    | 4 => .ldhCa
    | 5 => .ldnnA nn
    | 6 => .ldhaC
    | 7 => .ldAnn nn
    | _ => .jpccnn (fieldCC op) nn
  | 3 =>
    match (fieldY op).toNat with
    | 0 => .jpnn nn
    | 1 => decodeCB n
    | 2 => .illegalD3
    | 3 => .illegalDB
    | 4 => .illegalE3
    | 5 => .illegalEB
    | 6 => .di
    | _ => .ei
  | 4 =>
    match (fieldY op).toNat with
    | 4 => .illegalE4
    | 5 => .illegalEC
    | 6 => .illegalF4
    | 7 => .illegalFC
    | _ => .callccnn (fieldCC op) nn
  | 5 =>
    match (fieldY op).toNat with
    | 1 => .callnn nn
    | 3 => .illegalDD
    | 5 => .illegalED
    | 7 => .illegalFD
    | _ => .pushrr (rp2OfCode (fieldP op))
  | 6 =>
    match (fieldY op).toNat with
    | 0 => .addn n
    | 1 => .adcn n
    | 2 => .subn n
    | 3 => .sbcn n
    | 4 => .andn n
    | 5 => .xorn n
    | 6 => .orn n
    | _ => .cpn n
  | _ => .rstt (fieldY op)

/-- The instruction whose bytes are `b0`, `b1`, `b2`; a byte the instruction's format does not have is ignored (R91).
Total: every byte 0, and every `op2` after 0xCB, is some row of the table (R101). -/
def decode3 (b0 b1 b2 : Byte) : Instr :=
  match (fieldX b0).toNat with
  | 0 => decodeX0 b0 b1 (joinBytes b2 b1)
  | 1 => decodeX1 b0
  | 2 => decodeX2 b0
  | _ => decodeX3 b0 b1 (joinBytes b2 b1)

/-- The length in bytes, from byte 0 alone (R90, R102). -/
def lengthOf (b0 : Byte) : Nat :=
  if b0 = 0xCB then 2
  else
    match (fieldX b0).toNat, (fieldZ b0).toNat with
    | 0, 0 =>
      match (fieldY b0).toNat with
      | 0 => 1
      | 1 => 3
      | 2 => 1
      | _ => 2
    | 0, 1 => if fieldQ b0 then 1 else 3
    | 0, 6 => 2
    | 3, 0 => if (fieldY b0).toNat < 4 then 1 else 2
    | 3, 2 => if (fieldY b0).toNat < 4 || (fieldY b0).toNat = 5 || (fieldY b0).toNat = 7 then 3 else 1
    | 3, 3 => if (fieldY b0).toNat = 0 then 3 else 1
    | 3, 4 => if (fieldY b0).toNat < 4 then 3 else 1
    | 3, 5 => if (fieldY b0).toNat = 1 then 3 else 1
    | 3, 6 => 2
    | _, _ => 1

/-- Why a list of bytes holds no whole instruction. Neither can happen to the machine, whose fetch reads as many bytes as the
format has (R91). -/
inductive DecodeError where
  /-- There is no byte. -/
  | noBytes
  /-- The list ends before the last byte of the instruction that `op` begins. -/
  | truncated (op : Byte)
deriving DecidableEq, Repr

/-- The first instruction of a list of bytes, and the bytes after it. -/
def decode (bs : List Byte) : Except DecodeError (Instr × List Byte) :=
  match bs with
  | [] => .error .noBytes
  | b0 :: rest =>
    if rest.length + 1 < lengthOf b0 then .error (.truncated b0)
    else .ok (decode3 b0 (rest.getD 0 0) (rest.getD 1 0), rest.drop (lengthOf b0 - 1))

/-! ## Encoding -/

/-- The bytes of an instruction, the first at the lowest address (R90, R105; for the rows that are not in the block, R97 and
R98). -/
def encode (i : Instr) : List Byte :=
  match i with
  | .ldrr dst src => [0x40 + 8 * dst.code + src.code]
  | .ldrn r n => [0x06 + 8 * r.code, n]
  | .ldrHL r => [0x46 + 8 * r.code]
  | .ldHLr r => [0x70 + r.code]
  | .ldHLn n => [0x36, n]
  | .ldaBC => [0x0A]
  | .ldaDE => [0x1A]
  | .ldBCa => [0x02]
  | .ldDEa => [0x12]
  | .ldAnn nn => [0xFA, loByte nn, hiByte nn]
  | .ldnnA nn => [0xEA, loByte nn, hiByte nn]
  | .ldhaC => [0xF2]
  | .ldhCa => [0xE2]
  | .ldhAn n => [0xF0, n]
  | .ldhnA n => [0xE0, n]
  | .ldaHLm => [0x3A]
  | .ldaHLp => [0x2A]
  | .ldHLam => [0x32]
  | .ldHLap => [0x22]
  | .ldrrnn rr nn => [0x01 + 16 * rr.code, loByte nn, hiByte nn]
  | .ldnnSP nn => [0x08, loByte nn, hiByte nn]
  | .ldSPHL => [0xF9]
  | .ldHLSPpe e => [0xF8, e]
  | .pushrr rr => [0xC5 + 16 * rr.code]
  | .poprr rr => [0xC1 + 16 * rr.code]
  | .popAF => [0xF1]
  | .addr r => [0x80 + r.code]
  | .addHL => [0x86]
  | .addn n => [0xC6, n]
  | .adcr r => [0x88 + r.code]
  | .adcHL => [0x8E]
  | .adcn n => [0xCE, n]
  | .subr r => [0x90 + r.code]
  | .subHL => [0x96]
  | .subn n => [0xD6, n]
  | .sbcr r => [0x98 + r.code]
  | .sbcHL => [0x9E]
  | .sbcn n => [0xDE, n]
  | .cpr r => [0xB8 + r.code]
  | .cpHL => [0xBE]
  | .cpn n => [0xFE, n]
  | .incr r => [0x04 + 8 * r.code]
  | .incHL => [0x34]
  | .decr r => [0x05 + 8 * r.code]
  | .decHL => [0x35]
  | .addHLrr rr => [0x09 + 16 * rr.code]
  | .addSPpe e => [0xE8, e]
  | .andr r => [0xA0 + r.code]
  | .andHL => [0xA6]
  | .andn n => [0xE6, n]
  | .orr r => [0xB0 + r.code]
  | .orHL => [0xB6]
  | .orn n => [0xF6, n]
  | .xorr r => [0xA8 + r.code]
  | .xorHL => [0xAE]
  | .xorn n => [0xEE, n]
  | .ccf => [0x3F]
  | .scf => [0x37]
  | .daa => [0x27]
  | .cpl => [0x2F]
  | .rlca => [0x07]
  | .rrca => [0x0F]
  | .rla => [0x17]
  | .rra => [0x1F]
  | .rlcr r => [0xCB, 0x00 + r.code]
  | .rlcHL => [0xCB, 0x06]
  | .rrcr r => [0xCB, 0x08 + r.code]
  | .rrcHL => [0xCB, 0x0E]
  | .rlr r => [0xCB, 0x10 + r.code]
  | .rlHL => [0xCB, 0x16]
  | .rrr r => [0xCB, 0x18 + r.code]
  | .rrHL => [0xCB, 0x1E]
  | .slar r => [0xCB, 0x20 + r.code]
  | .slaHL => [0xCB, 0x26]
  | .srar r => [0xCB, 0x28 + r.code]
  | .sraHL => [0xCB, 0x2E]
  | .srlr r => [0xCB, 0x38 + r.code]
  | .srlHL => [0xCB, 0x3E]
  | .swapr r => [0xCB, 0x30 + r.code]
  | .swapHL => [0xCB, 0x36]
  | .bitbr b r => [0xCB, 0x40 + 8 * b.setWidth 8 + r.code]
  | .bitbHL b => [0xCB, 0x46 + 8 * b.setWidth 8]
  | .prefixCB op2 => [0xCB, op2]
  | .nop => [0x00]
  | .stop => [0x10]
  | .jre e => [0x18, e]
  | .jrcce cc e => [0x20 + 8 * cc.setWidth 8, e]
  | .halt => [0x76]
  | .jpnn nn => [0xC3, loByte nn, hiByte nn]
  | .jpccnn cc nn => [0xC2 + 8 * cc.setWidth 8, loByte nn, hiByte nn]
  | .jpHL => [0xE9]
  | .callnn nn => [0xCD, loByte nn, hiByte nn]
  | .callccnn cc nn => [0xC4 + 8 * cc.setWidth 8, loByte nn, hiByte nn]
  | .ret => [0xC9]
  | .retcc cc => [0xC0 + 8 * cc.setWidth 8]
  | .reti => [0xD9]
  | .rstt t => [0xC7 + 8 * t.setWidth 8]
  | .incrr rr => [0x03 + 16 * rr.code]
  | .decrr rr => [0x0B + 16 * rr.code]
  | .di => [0xF3]
  | .ei => [0xFB]
  | .resbr b r => [0xCB, 0x80 + 8 * b.setWidth 8 + r.setWidth 8]
  | .setbr b r => [0xCB, 0xC0 + 8 * b.setWidth 8 + r.setWidth 8]
  | .illegalD3 => [0xD3]
  | .illegalDB => [0xDB]
  | .illegalDD => [0xDD]
  | .illegalE3 => [0xE3]
  | .illegalE4 => [0xE4]
  | .illegalEB => [0xEB]
  | .illegalEC => [0xEC]
  | .illegalED => [0xED]
  | .illegalF4 => [0xF4]
  | .illegalFC => [0xFC]
  | .illegalFD => [0xFD]

/-- The opcode byte, byte 0 of the encoding (R90). -/
def opcodeByte (i : Instr) : Byte := (encode i).headD 0

/-! ## The host's numbering of an instruction's bits -/

/-- Byte `k` of an instruction of `nbits` bits `w`, bit 0 of `w` the least significant bit of byte 0; bits from `nbits` up
are 0. -/
def tableByte (nbits w k : Nat) : Byte := BitVec.ofNat 8 ((w % 2 ^ nbits) / 256 ^ k)

/-- The instruction the decoder reads from the bytes of `w`, with zero bytes after them up to the longest format. -/
def decodeTableWord (nbits w : Nat) : Option Instr :=
  match decode [tableByte nbits w 0, tableByte nbits w 1, tableByte nbits w 2] with
  | .ok (i, _) => some i
  | .error _ => none

end Sys2Proof
end

