-- ==== Sys2Proof/Machine/NotInCore.lean ====
section
/-! DEFINITION. The SM83 instructions that are not in the block. "This spec gives these instructions no semantics, not even
from general knowledge" (30_encoding.md R100); the outcome is `NotInCore` with the byte, or with 0xCB and `op2`, and no
state changes (60_exceptions.md R282). -/

namespace Sys2Proof.Machine

/-- `NOP`. -/
def execNOP (_s : State) : Host.Outcome State Fault Refusal :=
  notInCore (opcodeByte .nop)

/-- `STOP`. -/
def execSTOP (_s : State) : Host.Outcome State Fault Refusal :=
  notInCore (opcodeByte .stop)

/-- `JRe`. -/
def execJRe (e : Byte) (_s : State) : Host.Outcome State Fault Refusal :=
  notInCore (opcodeByte (.jre e))

/-- `JRcce`. -/
def execJRcce (cc : BitVec 2) (e : Byte) (_s : State) : Host.Outcome State Fault Refusal :=
  notInCore (opcodeByte (.jrcce cc e))

/-- `HALT`. -/
def execHALT (_s : State) : Host.Outcome State Fault Refusal :=
  notInCore (opcodeByte .halt)

/-- `JPnn`. -/
def execJPnn (nn : Word) (_s : State) : Host.Outcome State Fault Refusal :=
  notInCore (opcodeByte (.jpnn nn))

/-- `JPccnn`. -/
def execJPccnn (cc : BitVec 2) (nn : Word) (_s : State) : Host.Outcome State Fault Refusal :=
  notInCore (opcodeByte (.jpccnn cc nn))

/-- `JPHL`. -/
def execJPHL (_s : State) : Host.Outcome State Fault Refusal :=
  notInCore (opcodeByte .jpHL)

/-- `CALLnn`. -/
def execCALLnn (nn : Word) (_s : State) : Host.Outcome State Fault Refusal :=
  notInCore (opcodeByte (.callnn nn))

/-- `CALLccnn`. -/
def execCALLccnn (cc : BitVec 2) (nn : Word) (_s : State) : Host.Outcome State Fault Refusal :=
  notInCore (opcodeByte (.callccnn cc nn))

/-- `RET`. -/
def execRET (_s : State) : Host.Outcome State Fault Refusal :=
  notInCore (opcodeByte .ret)

/-- `RETcc`. -/
def execRETcc (cc : BitVec 2) (_s : State) : Host.Outcome State Fault Refusal :=
  notInCore (opcodeByte (.retcc cc))

/-- `RETI`. -/
def execRETI (_s : State) : Host.Outcome State Fault Refusal :=
  notInCore (opcodeByte .reti)

/-- `RSTt`. -/
def execRSTt (t : BitVec 3) (_s : State) : Host.Outcome State Fault Refusal :=
  notInCore (opcodeByte (.rstt t))

/-- `INCrr`. -/
def execINCrr (rr : Rp) (_s : State) : Host.Outcome State Fault Refusal :=
  notInCore (opcodeByte (.incrr rr))

/-- `DECrr`. -/
def execDECrr (rr : Rp) (_s : State) : Host.Outcome State Fault Refusal :=
  notInCore (opcodeByte (.decrr rr))

/-- `DI`. -/
def execDI (_s : State) : Host.Outcome State Fault Refusal :=
  notInCore (opcodeByte .di)

/-- `EI`. -/
def execEI (_s : State) : Host.Outcome State Fault Refusal :=
  notInCore (opcodeByte .ei)

/-- `RESbr`. -/
def execRESbr (b : BitVec 3) (r : BitVec 3) (_s : State) : Host.Outcome State Fault Refusal :=
  notInCoreCB ((encode (.resbr b r)).getD 1 0)

/-- `SETbr`. -/
def execSETbr (b : BitVec 3) (r : BitVec 3) (_s : State) : Host.Outcome State Fault Refusal :=
  notInCoreCB ((encode (.setbr b r)).getD 1 0)

end Sys2Proof.Machine
end

