-- ==== Sys2Proof/Machine/RotateShift.lean ====
section
/-! DEFINITION. The rotate, shift and swap family (46_rotate_shift.md R240 to R260). The meanings take the configured
profile, `doc` (log entry 3); `rotateUnder` and `rotateAccUnder` take either. -/

namespace Sys2Proof.Machine

/-- A CB-prefixed member under a profile: the operand is read once and written once, then the flags (R240). -/
def rotateUnder (p : FlagProfile) (op : RotOp) (t : Target8) (s : State) : Host.Outcome State Fault Refusal :=
  let v := s.readTarget t
  let res := rotResult op v (s.flag .c)
  .next (((s.writeTarget t res).rotFlags p op res (rotCarry op v)).advance 2)

/-- An accumulator form under a profile (R240). -/
def rotateAccUnder (p : FlagProfile) (op : RotOp) (s : State) : Host.Outcome State Fault Refusal :=
  let v := s.get8 .a
  .next (((s.set8 .a (rotResult op v (s.flag .c))).rotAccFlags p (rotCarry op v)).advance 1)

/-- `RLCA` (R241). -/
def execRLCA (s : State) : Host.Outcome State Fault Refusal :=
  rotateAccUnder Config.flagProfile .rlc s

/-- `RRCA` (R242). -/
def execRRCA (s : State) : Host.Outcome State Fault Refusal :=
  rotateAccUnder Config.flagProfile .rrc s

/-- `RLA` (R243). -/
def execRLA (s : State) : Host.Outcome State Fault Refusal :=
  rotateAccUnder Config.flagProfile .rl s

/-- `RRA` (R244). -/
def execRRA (s : State) : Host.Outcome State Fault Refusal :=
  rotateAccUnder Config.flagProfile .rr s

/-- `RLCr` (R245). -/
def execRLCr (r : R8) (s : State) : Host.Outcome State Fault Refusal :=
  rotateUnder Config.flagProfile .rlc (.reg r) s

/-- `RLCHL` (R246). -/
def execRLCHL (s : State) : Host.Outcome State Fault Refusal :=
  rotateUnder Config.flagProfile .rlc .atHL s

/-- `RRCr` (R247). -/
def execRRCr (r : R8) (s : State) : Host.Outcome State Fault Refusal :=
  rotateUnder Config.flagProfile .rrc (.reg r) s

/-- `RRCHL` (R248). -/
def execRRCHL (s : State) : Host.Outcome State Fault Refusal :=
  rotateUnder Config.flagProfile .rrc .atHL s

/-- `RLr` (R249). -/
def execRLr (r : R8) (s : State) : Host.Outcome State Fault Refusal :=
  rotateUnder Config.flagProfile .rl (.reg r) s

/-- `RLHL` (R250). -/
def execRLHL (s : State) : Host.Outcome State Fault Refusal :=
  rotateUnder Config.flagProfile .rl .atHL s

/-- `RRr` (R251). -/
def execRRr (r : R8) (s : State) : Host.Outcome State Fault Refusal :=
  rotateUnder Config.flagProfile .rr (.reg r) s

/-- `RRHL` (R252). -/
def execRRHL (s : State) : Host.Outcome State Fault Refusal :=
  rotateUnder Config.flagProfile .rr .atHL s

/-- `SLAr` (R253). -/
def execSLAr (r : R8) (s : State) : Host.Outcome State Fault Refusal :=
  rotateUnder Config.flagProfile .sla (.reg r) s

/-- `SLAHL` (R254). -/
def execSLAHL (s : State) : Host.Outcome State Fault Refusal :=
  rotateUnder Config.flagProfile .sla .atHL s

/-- `SRAr` (R255). -/
def execSRAr (r : R8) (s : State) : Host.Outcome State Fault Refusal :=
  rotateUnder Config.flagProfile .sra (.reg r) s

/-- `SRAHL` (R256). -/
def execSRAHL (s : State) : Host.Outcome State Fault Refusal :=
  rotateUnder Config.flagProfile .sra .atHL s

/-- `SRLr` (R257). -/
def execSRLr (r : R8) (s : State) : Host.Outcome State Fault Refusal :=
  rotateUnder Config.flagProfile .srl (.reg r) s

/-- `SRLHL` (R258). -/
def execSRLHL (s : State) : Host.Outcome State Fault Refusal :=
  rotateUnder Config.flagProfile .srl .atHL s

/-- `SWAPr` (R259). -/
def execSWAPr (r : R8) (s : State) : Host.Outcome State Fault Refusal :=
  rotateUnder Config.flagProfile .swap (.reg r) s

/-- `SWAPHL` (R260). -/
def execSWAPHL (s : State) : Host.Outcome State Fault Refusal :=
  rotateUnder Config.flagProfile .swap .atHL s

end Sys2Proof.Machine
end

