-- ==== Sys2Proof/Machine/Prefix.lean ====
section
/-! DEFINITION. The row of the 0xCB prefix (30_encoding.md R96, R98). -/

namespace Sys2Proof.Machine

/-- The operation whose number is `op2[5:3]` (R98). -/
def rotOpOfCode (k : BitVec 3) : RotOp :=
  match k.toNat with
  | 0 => .rlc
  | 1 => .rrc
  | 2 => .rl
  | 3 => .rr
  | 4 => .sla
  | 5 => .sra
  | 6 => .swap
  | _ => .srl

/-- The operand an r8 code selects, code 6 the memory byte at HL (R93). -/
def targetOfCode (k : BitVec 3) : Target8 :=
  match r8OfCode k with
  | some r => .reg r
  | none => .atHL

/-- The prefix row under a profile: 0xCB and `op2` together are the one instruction that `op2` selects by its fields (R96,
R98). -/
def prefixCBUnder (p : FlagProfile) (op2 : Byte) (s : State) : Host.Outcome State Fault Refusal :=
  match (fieldX op2).toNat with
  | 0 => rotateUnder p (rotOpOfCode (fieldY op2)) (targetOfCode (fieldZ op2)) s
  | 1 => testBit (fieldY op2) (s.readTarget (targetOfCode (fieldZ op2))) s
  | _ => notInCoreCB op2

/-- `PREFIX_CB`: the row of byte 0 = 0xCB (R96). The decoder never yields it, since it yields the row `op2` selects (R98,
R101); that `exec` of it is `exec` of that row is the model's choice (DEDUCED, log entry 17). -/
def execPREFIXCB (op2 : Byte) (s : State) : Host.Outcome State Fault Refusal :=
  prefixCBUnder Config.flagProfile op2 s

end Sys2Proof.Machine
end

