-- ==== Sys2Proof/Machine/Stack.lean ====
section
/-! DEFINITION. The stack family (42_stack.md R180 to R183). -/

namespace Sys2Proof.Machine

/-- `PUSHrr` (R181): SP minus 2, then the register at the new SP; all eight bits of F for AF (R26). -/
def execPUSHrr (rr : Rp2) (s : State) : Host.Outcome State Fault Refusal :=
  .next (((s.set16 .sp (s.sp - 2)).memWrite2 (s.sp - 2) (s.get16 rr.reg)).advance 1)

/-- `r16[dst] <- v`, SP plus 2 (R180). -/
def popInto (dst : Reg16) (v : Word) (s : State) : Host.Outcome State Fault Refusal :=
  .next (((s.set16 dst v).set16 .sp (s.sp + 2)).advance 1)

/-- `POPrr` for BC, DE, HL (R182). -/
def execPOPrr (rr : Pair) (s : State) : Host.Outcome State Fault Refusal :=
  popInto rr.reg (s.memRead2 s.sp) s

/-- `POPrr` with `rr = AF`: bits 3 to 0 of F are written as 0 (R183; 90_conflicts.md C2, D9, log entry 7). -/
def execPOPAF (s : State) : Host.Outcome State Fault Refusal :=
  popInto .af (s.memRead2 s.sp &&& 0xFFF0) s

end Sys2Proof.Machine
end

