-- ==== Sys2Proof/Machine/Dispatch.lean ====
section
/-! DEFINITION. One arm per instruction, each one call of its meaning. -/

namespace Sys2Proof.Machine

def exec (i : Instr) (s : State) : Host.Outcome State Fault Refusal :=
  match i with
  -- Load family (41_load.md)
  | .ldrr dst src => Sys2Proof.Machine.execLDrr dst src s
  | .ldrn r n => Sys2Proof.Machine.execLDrn r n s
  | .ldrHL r => Sys2Proof.Machine.execLDrHL r s
  | .ldHLr r => Sys2Proof.Machine.execLDHLr r s
  | .ldHLn n => Sys2Proof.Machine.execLDHLn n s
  | .ldaBC => Sys2Proof.Machine.execLDaBC s
  | .ldaDE => Sys2Proof.Machine.execLDaDE s
  | .ldBCa => Sys2Proof.Machine.execLDBCa s
  | .ldDEa => Sys2Proof.Machine.execLDDEa s
  | .ldAnn nn => Sys2Proof.Machine.execLDAnn nn s
  | .ldnnA nn => Sys2Proof.Machine.execLDnnA nn s
  | .ldhaC => Sys2Proof.Machine.execLDHaC s
  | .ldhCa => Sys2Proof.Machine.execLDHCa s
  | .ldhAn n => Sys2Proof.Machine.execLDHAn n s
  | .ldhnA n => Sys2Proof.Machine.execLDHnA n s
  | .ldaHLm => Sys2Proof.Machine.execLDaHLm s
  | .ldaHLp => Sys2Proof.Machine.execLDaHLp s
  | .ldHLam => Sys2Proof.Machine.execLDHLam s
  | .ldHLap => Sys2Proof.Machine.execLDHLap s
  | .ldrrnn rr nn => Sys2Proof.Machine.execLDrrnn rr nn s
  | .ldnnSP nn => Sys2Proof.Machine.execLDnnSP nn s
  | .ldSPHL => Sys2Proof.Machine.execLDSPHL s
  | .ldHLSPpe e => Sys2Proof.Machine.execLDHLSPpe e s
  -- Stack family (42_stack.md)
  | .pushrr rr => Sys2Proof.Machine.execPUSHrr rr s
  | .poprr rr => Sys2Proof.Machine.execPOPrr rr s
  | .popAF => Sys2Proof.Machine.execPOPAF s
  -- Arithmetic family (43_arithmetic.md)
  | .addr r => Sys2Proof.Machine.execADDr r s
  | .addHL => Sys2Proof.Machine.execADDHL s
  | .addn n => Sys2Proof.Machine.execADDn n s
  | .adcr r => Sys2Proof.Machine.execADCr r s
  | .adcHL => Sys2Proof.Machine.execADCHL s
  | .adcn n => Sys2Proof.Machine.execADCn n s
  | .subr r => Sys2Proof.Machine.execSUBr r s
  | .subHL => Sys2Proof.Machine.execSUBHL s
  | .subn n => Sys2Proof.Machine.execSUBn n s
  | .sbcr r => Sys2Proof.Machine.execSBCr r s
  | .sbcHL => Sys2Proof.Machine.execSBCHL s
  | .sbcn n => Sys2Proof.Machine.execSBCn n s
  | .cpr r => Sys2Proof.Machine.execCPr r s
  | .cpHL => Sys2Proof.Machine.execCPHL s
  | .cpn n => Sys2Proof.Machine.execCPn n s
  | .incr r => Sys2Proof.Machine.execINCr r s
  | .incHL => Sys2Proof.Machine.execINCHL s
  | .decr r => Sys2Proof.Machine.execDECr r s
  | .decHL => Sys2Proof.Machine.execDECHL s
  | .addHLrr rr => Sys2Proof.Machine.execADDHLrr rr s
  | .addSPpe e => Sys2Proof.Machine.execADDSPpe e s
  -- Bitwise family (44_bitwise.md)
  | .andr r => Sys2Proof.Machine.execANDr r s
  | .andHL => Sys2Proof.Machine.execANDHL s
  | .andn n => Sys2Proof.Machine.execANDn n s
  | .orr r => Sys2Proof.Machine.execORr r s
  | .orHL => Sys2Proof.Machine.execORHL s
  | .orn n => Sys2Proof.Machine.execORn n s
  | .xorr r => Sys2Proof.Machine.execXORr r s
  | .xorHL => Sys2Proof.Machine.execXORHL s
  | .xorn n => Sys2Proof.Machine.execXORn n s
  -- Flag and accumulator family (45_flag_accumulator.md)
  | .ccf => Sys2Proof.Machine.execCCF s
  | .scf => Sys2Proof.Machine.execSCF s
  | .daa => Sys2Proof.Machine.execDAA s
  | .cpl => Sys2Proof.Machine.execCPL s
  -- Rotate, shift and swap family (46_rotate_shift.md)
  | .rlca => Sys2Proof.Machine.execRLCA s
  | .rrca => Sys2Proof.Machine.execRRCA s
  | .rla => Sys2Proof.Machine.execRLA s
  | .rra => Sys2Proof.Machine.execRRA s
  | .rlcr r => Sys2Proof.Machine.execRLCr r s
  | .rlcHL => Sys2Proof.Machine.execRLCHL s
  | .rrcr r => Sys2Proof.Machine.execRRCr r s
  | .rrcHL => Sys2Proof.Machine.execRRCHL s
  | .rlr r => Sys2Proof.Machine.execRLr r s
  | .rlHL => Sys2Proof.Machine.execRLHL s
  | .rrr r => Sys2Proof.Machine.execRRr r s
  | .rrHL => Sys2Proof.Machine.execRRHL s
  | .slar r => Sys2Proof.Machine.execSLAr r s
  | .slaHL => Sys2Proof.Machine.execSLAHL s
  | .srar r => Sys2Proof.Machine.execSRAr r s
  | .sraHL => Sys2Proof.Machine.execSRAHL s
  | .srlr r => Sys2Proof.Machine.execSRLr r s
  | .srlHL => Sys2Proof.Machine.execSRLHL s
  | .swapr r => Sys2Proof.Machine.execSWAPr r s
  | .swapHL => Sys2Proof.Machine.execSWAPHL s
  -- Bit-test family (47_bit_test.md)
  | .bitbr b r => Sys2Proof.Machine.execBITbr b r s
  | .bitbHL b => Sys2Proof.Machine.execBITbHL b s
  -- The prefix row (30_encoding.md R96)
  | .prefixCB op2 => Sys2Proof.Machine.execPREFIXCB op2 s
  -- SM83 instructions that are not in the block (R100)
  | .nop => Sys2Proof.Machine.execNOP s
  | .stop => Sys2Proof.Machine.execSTOP s
  | .jre e => Sys2Proof.Machine.execJRe e s
  | .jrcce cc e => Sys2Proof.Machine.execJRcce cc e s
  | .halt => Sys2Proof.Machine.execHALT s
  | .jpnn nn => Sys2Proof.Machine.execJPnn nn s
  | .jpccnn cc nn => Sys2Proof.Machine.execJPccnn cc nn s
  | .jpHL => Sys2Proof.Machine.execJPHL s
  | .callnn nn => Sys2Proof.Machine.execCALLnn nn s
  | .callccnn cc nn => Sys2Proof.Machine.execCALLccnn cc nn s
  | .ret => Sys2Proof.Machine.execRET s
  | .retcc cc => Sys2Proof.Machine.execRETcc cc s
  | .reti => Sys2Proof.Machine.execRETI s
  | .rstt t => Sys2Proof.Machine.execRSTt t s
  | .incrr rr => Sys2Proof.Machine.execINCrr rr s
  | .decrr rr => Sys2Proof.Machine.execDECrr rr s
  | .di => Sys2Proof.Machine.execDI s
  | .ei => Sys2Proof.Machine.execEI s
  | .resbr b r => Sys2Proof.Machine.execRESbr b r s
  | .setbr b r => Sys2Proof.Machine.execSETbr b r s
  -- Bytes that encode nothing (R99)
  | .illegalD3 => Sys2Proof.Machine.execILLEGALD3 s
  | .illegalDB => Sys2Proof.Machine.execILLEGALDB s
  | .illegalDD => Sys2Proof.Machine.execILLEGALDD s
  | .illegalE3 => Sys2Proof.Machine.execILLEGALE3 s
  | .illegalE4 => Sys2Proof.Machine.execILLEGALE4 s
  | .illegalEB => Sys2Proof.Machine.execILLEGALEB s
  | .illegalEC => Sys2Proof.Machine.execILLEGALEC s
  | .illegalED => Sys2Proof.Machine.execILLEGALED s
  | .illegalF4 => Sys2Proof.Machine.execILLEGALF4 s
  | .illegalFC => Sys2Proof.Machine.execILLEGALFC s
  | .illegalFD => Sys2Proof.Machine.execILLEGALFD s

end Sys2Proof.Machine
end

