-- ==== Sys2Proof/Machine/Fetch.lean ====
section
/-! DEFINITION. Instruction fetch (20_memory.md R72, 30_encoding.md R91): the bytes at `pc0`, `pc0 + 1`, `pc0 + 2`, each
address `mod 65536`, all read from the memory as it is at the start of the step. Reading has no side effect (R61) and the
decoder ignores a byte the format does not have, so reading all three is the same as reading only the bytes there are. -/

namespace Sys2Proof.Machine

/-- The instruction at PC. -/
def fetch (s : State) : Instr :=
  decode3 (s.memRead1 s.pc) (s.memRead1 (s.pc + 1)) (s.memRead1 (s.pc + 2))

/-- The state with the bytes of `w`, and zero bytes after them up to the longest format, stored where `fetch` reads. -/
def placeAtPc (s : State) (nbits w : Nat) : State :=
  ((s.memWrite1 s.pc (tableByte nbits w 0)).memWrite1 (s.pc + 1) (tableByte nbits w 1)).memWrite1 (s.pc + 2)
    (tableByte nbits w 2)

end Sys2Proof.Machine
end

