-- ==== Sys2Proof/Machine/Step.lean ====
section
/-! DEFINITION. One step: fetch and decode the instruction at PC, then execute it (00_scope.md R7). The meaning itself
advances PC, once and last (10_state.md R27, 70_reset_and_hazards.md R309), so nothing stands around `exec`. A step that is no
next state carries no state: the state it leaves is the one before it (60_exceptions.md R281, R282, R285). -/

namespace Sys2Proof.Machine

/-- One step of the core (R7). -/
def step (s : State) : Host.Outcome State Fault Refusal :=
  exec (fetch s) s

/-- The state with the instruction of `nbits` bits `w` at PC, so that the next step runs it. -/
def State.withFetchWord (s : State) (nbits w : Nat) : State :=
  placeAtPc s nbits w

end Sys2Proof.Machine
end

