-- ==== Sys2Proof/Machine/Profile.lean ====
section
/-! DEFINITION. The machine under either value of the parameter `FlagProfile` (00_scope.md R3, R4). `exec` and `step` are the
machine under `Config.flagProfile`. -/

namespace Sys2Proof.Machine

/-- `exec` under a profile. The instructions named here are those whose flags differ between the profiles (R3), and the
prefix row that stands for some of them; "nothing else in this spec depends on FlagProfile" (R3). -/
def execUnder (p : FlagProfile) (i : Instr) (s : State) : Host.Outcome State Fault Refusal :=
  match i with
  | .addHLrr rr => addHLrrUnder p rr s
  | .rlca => rotateAccUnder p .rlc s
  | .rrca => rotateAccUnder p .rrc s
  | .rla => rotateAccUnder p .rl s
  | .rra => rotateAccUnder p .rr s
  | .rlcr r => rotateUnder p .rlc (.reg r) s
  | .rlcHL => rotateUnder p .rlc .atHL s
  | .rrcr r => rotateUnder p .rrc (.reg r) s
  | .rrcHL => rotateUnder p .rrc .atHL s
  | .rlr r => rotateUnder p .rl (.reg r) s
  | .rlHL => rotateUnder p .rl .atHL s
  | .rrr r => rotateUnder p .rr (.reg r) s
  | .rrHL => rotateUnder p .rr .atHL s
  | .slar r => rotateUnder p .sla (.reg r) s
  | .slaHL => rotateUnder p .sla .atHL s
  | .srar r => rotateUnder p .sra (.reg r) s
  | .sraHL => rotateUnder p .sra .atHL s
  | .srlr r => rotateUnder p .srl (.reg r) s
  | .srlHL => rotateUnder p .srl .atHL s
  | .prefixCB op2 => prefixCBUnder p op2 s
  | other => exec other s

/-- `step` under a profile. -/
def stepUnder (p : FlagProfile) (s : State) : Host.Outcome State Fault Refusal :=
  execUnder p (fetch s) s

end Sys2Proof.Machine
end

