-- ==== Sys2Proof/Safety.lean ====
section
/-! DEFINITION. The terms in which claims are stated: what an instruction leaves unchanged, the effect of an instruction that
completes, the tables of the spec that speak of all instructions at once, and the invariant of the machine. -/

namespace Sys2Proof

open Sys2Proof.Machine

/-! ## Frames and effects -/

/-- The halves of a combined register (10_state.md R21); none for an independent register. -/
def Reg16.halves (r : Reg16) : List Half :=
  match r with
  | .af => [.a, .f]
  | .bc => [.b, .c]
  | .de => [.d, .e]
  | .hl => [.h, .l]
  | .ir | .ie | .sp | .pc => []

/-- From `s` to `t` nothing changes but the listed halves, flags, independent registers and memory cells, and PC. Halve F
stands here as its four flags and its bits 3 to 0, which never change. -/
structure Frame (halves : List Half) (flags : List Flag) (regs : List Reg16) (cells : List Word) (s t : State) : Prop where
  halves : ∀ x : Half, x ≠ .f → x ∉ halves → t.get8 x = s.get8 x
  flags : ∀ f : Flag, f ∉ flags → t.flag f = s.flag f
  fLow : t.fLow = s.fLow
  ir : t.ir = s.ir
  ie : t.ie = s.ie
  sp : Reg16.sp ∉ regs → t.sp = s.sp
  cells : ∀ a : Word, a ∉ cells → t.memRead1 a = s.memRead1 a

/-- The outcome `o` of an instruction begun in `s` is a next state: PC has advanced by `length` (10_state.md R27), `post`
holds, and nothing else than what is listed has changed. -/
def Effect (o : Host.Outcome State Fault Refusal) (s : State) (length : Word) (halves : List Half) (flags : List Flag)
    (regs : List Reg16) (cells : List Word) (post : State → Prop) : Prop :=
  ∃ t, o = .next t ∧ t.pc = s.pc + length ∧ Frame halves flags regs cells s t ∧ post t

/-- The instruction is encoded by exactly these bytes, and the decoder reads it back from them, whatever follows. -/
def Encodes (i : Instr) (bytes : List Byte) : Prop :=
  encode i = bytes ∧ ∀ rest, decode (bytes ++ rest) = .ok (i, rest)

/-- An outcome with its next state changed by `f`. -/
def mapNext (f : State → State) (o : Host.Outcome State Fault Refusal) : Host.Outcome State Fault Refusal :=
  match o with
  | .next t => .next (f t)
  | .fault r => .fault r
  | .refused r => .refused r

/-- All four flags. -/
def allFlags : List Flag := [.z, .n, .h, .c]

/-- Instruction `i` is encoded by `bytes`, and `exec` of it in `s` completes with this effect and a PC that has advanced by
the number of its bytes. -/
def Does (i : Instr) (bytes : List Byte) (s : State) (halves : List Half) (flags : List Flag) (regs : List Reg16)
    (cells : List Word) (post : State → Prop) : Prop :=
  Encodes i bytes ∧ Effect (exec i s) s (BitVec.ofNat 16 bytes.length) halves flags regs cells post

/-- The three forms of an accumulator operation (43_arithmetic.md R190, 44_bitwise.md R220), whose second operand is a halve,
the byte at HL, or an immediate: each changes the listed halves and all four flags, and `post` holds of the second operand
and the next state. -/
def ThreeForms (reg : R8 → Instr) (mem : Instr) (imm : Byte → Instr) (op opImm : Byte) (s : State) (halves : List Half)
    (post : Byte → State → Prop) : Prop :=
  (∀ r : R8, Does (reg r) [op + r.code] s halves allFlags [] [] (post (s.get8 r.half))) ∧
  Does mem [op + 6] s halves allFlags [] [] (post (s.memRead1 s.hl)) ∧
  ∀ n : Byte, Does (imm n) [opImm, n] s halves allFlags [] [] (post n)

/-- The two forms of a CB-prefixed member (46_rotate_shift.md R240 (f)), on a halve or on the byte at HL: each changes its
operand and the listed flags, and `post` holds of the old operand, the new one and the next state. -/
def TwoForms (reg : R8 → Instr) (mem : Instr) (op2 : Byte) (s : State) (flags : List Flag)
    (post : Byte → Byte → State → Prop) : Prop :=
  (∀ r : R8, Does (reg r) [0xCB, op2 + r.code] s [r.half] flags [] [] fun t => post (s.get8 r.half) (t.get8 r.half) t) ∧
  Does mem [0xCB, op2 + 6] s [] flags [] [s.hl] fun t => post (s.memRead1 s.hl) (t.memRead1 s.hl) t

/-- Under `silicon` the instruction completes as under `doc` but for Z, N and H: Z is `z` of the next state under `doc`,
N and H are 0 (46_rotate_shift.md R240 (e)). -/
def SiliconFlags (i : Instr) (s : State) (z : State → Bool) : Prop :=
  ∃ t u, exec i s = .next t ∧ execUnder .silicon i s = .next u ∧ u.pc = t.pc ∧ Frame [] [.z, .n, .h] [] [] t u ∧
    u.flag .z = z t ∧ u.flag .n = false ∧ u.flag .h = false

/-! ## Arithmetic in exact numbers -/

/-- A, Z, N, H and C after an addition of `v` and a carry `cin` to `a` (43_arithmetic.md R191 to R196). -/
def SumInA (a v cin : Nat) (t : State) : Prop :=
  (t.get8 .a).toNat = (a + v + cin) % 256 ∧ t.flag .z = decide ((a + v + cin) % 256 = 0) ∧ t.flag .n = false ∧
    t.flag .h = decide (a % 16 + v % 16 + cin > 15) ∧ t.flag .c = decide (a + v + cin > 255)

/-- Z, N, H and C after `v` and a borrow `bin` are taken from `a` (R197 to R205). -/
def DiffFlags (a v bin : Nat) (t : State) : Prop :=
  t.flag .z = decide ((a + 512 - (v + bin)) % 256 = 0) ∧ t.flag .n = true ∧
    t.flag .h = decide (a % 16 < v % 16 + bin) ∧ t.flag .c = decide (a < v + bin)

/-- A and the flags after a subtraction (R197 to R202). -/
def DiffInA (a v bin : Nat) (t : State) : Prop :=
  (t.get8 .a).toNat = (a + 512 - (v + bin)) % 256 ∧ DiffFlags a v bin t

/-- `res` is `v` moved one place up, `arriving` in bit 0 (46_rotate_shift.md R240). -/
def MovedLeft (v : Byte) (arriving : Bool) (res : Byte) : Prop :=
  ∀ k < 8, res.getLsbD k = if k = 0 then arriving else v.getLsbD (k - 1)

/-- `res` is `v` moved one place down, `arriving` in bit 7 (R240). -/
def MovedRight (v : Byte) (arriving : Bool) (res : Byte) : Prop :=
  ∀ k < 8, res.getLsbD k = if k = 7 then arriving else v.getLsbD (k + 1)

/-- The BCD byte of a number below 100: one decimal digit in each nibble (00_scope.md R11). -/
def bcd (n : Nat) : Byte := BitVec.ofNat 8 (n / 10 * 16 + n % 10)

/-- `exec` of `i` and then of `DAA` completes, with the BCD byte of `res` in A and `carry` in C. -/
def ThenDaa (i : Instr) (s : State) (res : Nat) (carry : Bool) : Prop :=
  ∃ t u, exec i s = .next t ∧ exec .daa t = .next u ∧ u.get8 .a = bcd res ∧ u.flag .c = carry

/-- `ThenDaa` of the three forms of an accumulator operation (43_arithmetic.md R190), each where its second operand is the BCD
byte of `m`. -/
def ThreeFormsThenDaa (reg : R8 → Instr) (mem : Instr) (imm : Byte → Instr) (s : State) (m res : Nat) (carry : Bool) : Prop :=
  (∀ r : R8, s.get8 r.half = bcd m → ThenDaa (reg r) s res carry) ∧
  (s.memRead1 s.hl = bcd m → ThenDaa mem s res carry) ∧
  ThenDaa (imm (bcd m)) s res carry

/-! ## Tables of the spec -/

/-- The eleven bytes that encode nothing (30_encoding.md R99). -/
def illegalBytes : List Byte := [0xD3, 0xDB, 0xDD, 0xE3, 0xE4, 0xEB, 0xEC, 0xED, 0xF4, 0xFC, 0xFD]

/-- The 43 values of byte 0 of SM83 instructions that are not in the block (R100). -/
def notInCoreBytes : List Byte :=
  [0x00, 0x10, 0x18, 0x20, 0x28, 0x30, 0x38, 0x03, 0x13, 0x23, 0x33, 0x0B, 0x1B, 0x2B, 0x3B] ++
  [0x76, 0xC0, 0xC8, 0xD0, 0xD8, 0xC2, 0xCA, 0xD2, 0xDA, 0xC3, 0xC4, 0xCC, 0xD4, 0xDC, 0xCD] ++
  [0xC9, 0xD9, 0xE9, 0xC7, 0xCF, 0xD7, 0xDF, 0xE7, 0xEF, 0xF7, 0xFF, 0xF3, 0xFB]

/-- The flags a primitive writes under `doc` (10_state.md R35). For the prefix row, those of the row it runs (DEDUCED, log
entry 17). -/
def flagsWritten (i : Instr) : List Flag :=
  match i with
  | .popAF | .ldHLSPpe _ | .addSPpe _ | .addHLrr _ => allFlags
  | .addr _ | .addHL | .addn _ | .adcr _ | .adcHL | .adcn _ | .subr _ | .subHL | .subn _ | .sbcr _ | .sbcHL | .sbcn _
  | .cpr _ | .cpHL | .cpn _ | .andr _ | .andHL | .andn _ | .orr _ | .orHL | .orn _ | .xorr _ | .xorHL | .xorn _ => allFlags
  | .swapr _ | .swapHL => allFlags
  | .incr _ | .incHL | .decr _ | .decHL | .bitbr _ _ | .bitbHL _ => [.z, .n, .h]
  | .ccf | .scf => [.n, .h, .c]
  | .daa => [.z, .h, .c]
  | .cpl => [.n, .h]
  | .rlca | .rrca | .rla | .rra | .rlcr _ | .rlcHL | .rrcr _ | .rrcHL | .rlr _ | .rlHL | .rrr _ | .rrHL | .slar _ | .slaHL
  | .srar _ | .sraHL | .srlr _ | .srlHL => [.c]
  | .prefixCB op2 => if op2.toNat / 8 = 6 then allFlags else if op2.toNat < 0x40 then [.c] else [.z, .n, .h]
  | _ => []

/-- The cells a primitive writes (20_memory.md R67). For the prefix row, those of the row it runs (DEDUCED, log entry 17). -/
def cellsWritten (i : Instr) (s : State) : List Word :=
  match i with
  | .ldHLr _ | .ldHLn _ | .ldHLam | .ldHLap | .incHL | .decHL | .rlcHL | .rrcHL | .rlHL | .rrHL | .slaHL | .sraHL | .srlHL
  | .swapHL => [s.hl]
  | .ldBCa => [s.bc]
  | .ldDEa => [s.de]
  | .ldnnA nn => [nn]
  | .ldhCa => [ldhAddr (s.get8 .c)]
  | .ldhnA n => [ldhAddr n]
  | .ldnnSP nn => [nn, nn + 1]
  | .pushrr _ => [s.sp - 2, s.sp - 1]
  | .prefixCB op2 => if op2.toNat < 0x40 ∧ op2.toNat % 8 = 6 then [s.hl] else []
  | _ => []

/-- The bytes an instruction of the block stores, each with its cell, the low byte first (41_load.md, 42_stack.md R181,
43_arithmetic.md R207, R209, 46_rotate_shift.md R240, R246 to R260). The prefix row is no such instruction. -/
def stores (i : Instr) (s : State) : List (Word × Byte) :=
  let v := s.memRead1 s.hl
  let c := bitByte (s.flag .c)
  match i with
  | .ldHLr r => [(s.hl, s.get8 r.half)]
  | .ldHLn n => [(s.hl, n)]
  | .ldHLam | .ldHLap => [(s.hl, s.get8 .a)]
  | .ldBCa => [(s.bc, s.get8 .a)]
  | .ldDEa => [(s.de, s.get8 .a)]
  | .ldnnA nn => [(nn, s.get8 .a)]
  | .ldhCa => [(ldhAddr (s.get8 .c), s.get8 .a)]
  | .ldhnA n => [(ldhAddr n, s.get8 .a)]
  | .ldnnSP nn => [(nn, loByte s.sp), (nn + 1, hiByte s.sp)]
  | .pushrr rr => [(s.sp - 2, loByte (s.get16 rr.reg)), (s.sp - 1, hiByte (s.get16 rr.reg))]
  | .incHL => [(s.hl, v + 1)]
  | .decHL => [(s.hl, v - 1)]
  | .rlcHL => [(s.hl, v.rotateLeft 1)]
  | .rrcHL => [(s.hl, v.rotateRight 1)]
  | .rlHL => [(s.hl, v <<< 1 ||| c)]
  | .rrHL => [(s.hl, v >>> 1 ||| c <<< 7)]
  | .slaHL => [(s.hl, v <<< 1)]
  | .sraHL => [(s.hl, v.sshiftRight 1)]
  | .srlHL => [(s.hl, v >>> 1)]
  | .swapHL => [(s.hl, v.rotateLeft 4)]
  | _ => []

/-- The byte at `a` once the bytes of `w` are stored. -/
def byteAfter (w : List (Word × Byte)) (s : State) (a : Word) : Byte := (w.lookup a).getD (s.memRead1 a)

/-- The instructions that write SP (10_state.md R28). -/
def writesSP (i : Instr) : Bool :=
  match i with
  | .ldrrnn .sp _ | .ldSPHL | .addSPpe _ | .pushrr _ | .poprr _ | .popAF => true
  | _ => false

/-- The instructions whose flags depend on `FlagProfile` (00_scope.md R3), and the prefix row that stands for some. -/
def profiled (i : Instr) : Bool :=
  match i with
  | .addHLrr _ | .rlca | .rrca | .rla | .rra | .rlcr _ | .rlcHL | .rrcr _ | .rrcHL | .rlr _ | .rlHL | .rrr _ | .rrHL
  | .slar _ | .slaHL | .srar _ | .sraHL | .srlr _ | .srlHL | .prefixCB _ => true
  | _ => false

/-! ## The invariant -/

/-- The premise `FLowZero`: bits 3 to 0 of F are 0 (R26). -/
def FLowZero (s : State) : Prop := s.fLow = 0

/-- The invariant of the machine: the memory list is canonical, and `FLowZero`. -/
def Inv (s : State) : Prop := s.mem.wf = true ∧ FLowZero s

end Sys2Proof
end

