-- ==== Sys2Proof/Certificates/Slice0/Obligations.lean ====
section
/-! DEFINITION. The statements for the provers. Every byte and every length of an encoding below is the one the spec's rules
give (30_encoding.md R97, R98, R102); the spec itself marks them as its adoption of the generally known opcode map (D3, D4),
so a statement that names one has basis 'derived'. In `Effect` and `Does` the lists are, in order, the halves, flags,
independent registers and memory cells that may change; everything else is stated unchanged. -/

open Sys2Proof Sys2Proof.Machine

/-! ## Reset and the parts of the state -/

/-- The state right after reset: every register 0 and every cell 0x00. The values are the model's own choice (DESIGN CHOICE,
log entries 1 and 2): the spec leaves `InitRegs` and `InitMem` open (10_state.md R34, D1, D2). -/
def Obligations.ResetLeavesTheChosenValues : Prop :=
  (∀ r : Reg16, State.reset.get16 r = 0) ∧ (∀ f : Flag, State.reset.flag f = false) ∧
    ∀ a : Word, State.reset.memRead1 a = 0x00

/-- The state created from `InitRegs` and `InitMem` holds exactly them; the entry point is `InitRegs.PC` and the flags are
bits 7 to 4 of `InitRegs.AF` (10_state.md R34, 70_reset_and_hazards.md R300; D1, D2). -/
def Obligations.CreationTakesRegistersAndMemory : Prop :=
  ∀ (r : InitRegs) (m : Memory),
    ((State.ofInit r m).get16 .af = r.af ∧ (State.ofInit r m).get16 .bc = r.bc ∧ (State.ofInit r m).get16 .de = r.de ∧
      (State.ofInit r m).get16 .hl = r.hl ∧ (State.ofInit r m).get16 .ir = r.ir ∧ (State.ofInit r m).get16 .ie = r.ie ∧
      (State.ofInit r m).get16 .sp = r.sp ∧ (State.ofInit r m).get16 .pc = r.pc) ∧
    (∀ a : Word, (State.ofInit r m).memRead1 a = Memory.read m a.toNat) ∧
    (State.ofInit r m).flag .z = r.af.getLsbD 7 ∧ (State.ofInit r m).flag .n = r.af.getLsbD 6 ∧
    (State.ofInit r m).flag .h = r.af.getLsbD 5 ∧ (State.ofInit r m).flag .c = r.af.getLsbD 4

/-- Every contents of the 65,536 cells is that of exactly one canonical memory list (10_state.md R31, R34; the list is the
model's form of the memory). -/
def Obligations.EveryMemoryContentsHasOneCanonicalForm : Prop :=
  ∀ f : Word → Byte, ∃ m : Memory, m.wf = true ∧ (∀ a : Word, Memory.read m a.toNat = f a) ∧
    ∀ m' : Memory, m'.wf = true → (∀ a : Word, Memory.read m' a.toNat = f a) → m' = m

/-- R21, R22: a combined register is its two halves; a halve write replaces those 8 bits and leaves the sibling halve, every
other halve and register, and memory as they were. -/
def Obligations.HalvesAreViewsOfTheirRegister : Prop :=
  ∀ s : State,
    (s.af = s.get8 .a ++ s.get8 .f ∧ s.bc = s.get8 .b ++ s.get8 .c ∧ s.de = s.get8 .d ++ s.get8 .e ∧
      s.hl = s.get8 .h ++ s.get8 .l) ∧
    ∀ (x : Half) (v : Byte), (s.set8 x v).get8 x = v ∧ (∀ y : Half, y ≠ x → (s.set8 x v).get8 y = s.get8 y) ∧
      (∀ r : Reg16, x ∉ r.halves → (s.set8 x v).get16 r = s.get16 r) ∧ (s.set8 x v).mem = s.mem

/-- R23: a register write replaces all 16 bits, both halves of a combined register included, and nothing else. -/
def Obligations.RegisterWriteReplacesAllSixteenBits : Prop :=
  ∀ (s : State) (r : Reg16) (v : Word),
    (s.set16 r v).get16 r = v ∧ (∀ q : Reg16, q ≠ r → (s.set16 r v).get16 q = s.get16 q) ∧
    (∀ x : Half, x ∉ r.halves → (s.set16 r v).get8 x = s.get8 x) ∧ (s.set16 r v).mem = s.mem ∧
    (s.set16 .af v).get8 .a ++ (s.set16 .af v).get8 .f = v ∧ (s.set16 .bc v).get8 .b ++ (s.set16 .bc v).get8 .c = v ∧
    (s.set16 .de v).get8 .d ++ (s.set16 .de v).get8 .e = v ∧ (s.set16 .hl v).get8 .h ++ (s.set16 .hl v).get8 .l = v

/-- R24, R25: the flags are bits 7, 6, 5 and 4 of F, a flag write sets that bit, and the other seven bits of F, A, every
other register and memory keep their values. -/
def Obligations.FlagsAreBitsSevenToFourOfF : Prop :=
  ∀ s : State,
    (s.flag .z = (s.get8 .f).getLsbD 7 ∧ s.flag .n = (s.get8 .f).getLsbD 6 ∧ s.flag .h = (s.get8 .f).getLsbD 5 ∧
      s.flag .c = (s.get8 .f).getLsbD 4) ∧
    ∀ (f : Flag) (b : Bool), (s.setFlag f b).flag f = b ∧
      (∀ k < 8, k ≠ flagPos f → ((s.setFlag f b).get8 .f).getLsbD k = (s.get8 .f).getLsbD k) ∧
      (s.setFlag f b).get8 .a = s.get8 .a ∧ (∀ r : Reg16, r ≠ .af → (s.setFlag f b).get16 r = s.get16 r) ∧
      (s.setFlag f b).mem = s.mem

/-- R61, R62: a byte read gives what the cell holds, and a byte write replaces that cell, no other cell and no register.
(That a read changes nothing is its type: it returns a byte and no state.) -/
def Obligations.ByteWriteReplacesOneCell : Prop :=
  ∀ (s : State) (a : Word) (v : Byte),
    (s.memWrite1 a v).memRead1 a = v ∧ (∀ c : Word, c ≠ a → (s.memWrite1 a v).memRead1 c = s.memRead1 c) ∧
    ∀ r : Reg16, (s.memWrite1 a v).get16 r = s.get16 r

/-- R63: a 16-bit read is little-endian, and at 0xFFFF takes its high byte from 0x0000. -/
def Obligations.WordReadIsLittleEndianAndWraps : Prop :=
  ∀ s : State,
    (∀ a : Word, (s.memRead2 a).toNat = (s.memRead1 (a + 1)).toNat * 256 + (s.memRead1 a).toNat) ∧
    (s.memRead2 0xFFFF).toNat = (s.memRead1 0x0000).toNat * 256 + (s.memRead1 0xFFFF).toNat

/-- 20_memory.md R64 to R66 (D15): a 16-bit store is two byte stores, at `a` and `a + 1` with wrap, at any address, odd ones
included, and their order cannot be observed; a 16-bit read gives it back. -/
def Obligations.WordWriteIsTwoByteWrites : Prop :=
  ∀ (s : State) (a v : Word),
    a + 1 ≠ a ∧
    (s.memWrite2 a v).memRead1 a = v.extractLsb' 0 8 ∧ (s.memWrite2 a v).memRead1 (a + 1) = v.extractLsb' 8 8 ∧
    (∀ c : Word, c ≠ a → c ≠ a + 1 → (s.memWrite2 a v).memRead1 c = s.memRead1 c) ∧
    (s.memWrite2 a v).memRead2 a = v ∧
    ∀ c : Word, ((s.memWrite1 (a + 1) (v.extractLsb' 8 8)).memWrite1 a (v.extractLsb' 0 8)).memRead1 c =
      (s.memWrite2 a v).memRead1 c

/-! ## The ALU primitives -/

/-- R130: result, carry and half-carry of an 8-bit addition in exact numbers, and commutativity in all three. That carry and
half-carry are bits 8 and 4 of the exact sums is what R130 marks as derived from its equations. -/
def Obligations.Add8IsExactAddition : Prop :=
  ∀ a b : Byte,
    (add8 a b).result.toNat = (a.toNat + b.toNat) % 256 ∧
    (add8 a b).carry = decide (a.toNat + b.toNat > 255) ∧
    (add8 a b).half = decide (a.toNat % 16 + b.toNat % 16 > 15) ∧
    (add8 a b).carry = (a.toNat + b.toNat).testBit 8 ∧
    (add8 a b).half = (a.toNat % 16 + b.toNat % 16).testBit 4 ∧
    add8 a b = add8 b a

/-- R131: result, borrow and half-borrow of an 8-bit subtraction, in exact numbers, and the two laws of its corner cases. -/
def Obligations.Sub8IsExactSubtraction : Prop :=
  ∀ a b : Byte,
    (sub8 a b).result.toNat = (if b.toNat ≤ a.toNat then a.toNat - b.toNat else a.toNat + 256 - b.toNat) ∧
    (sub8 a b).carry = decide (a.toNat < b.toNat) ∧
    (sub8 a b).half = decide (a.toNat % 16 < b.toNat % 16) ∧
    sub8 a a = { result := 0, carry := false, half := false } ∧
    sub8 a 0 = { result := a, carry := false, half := false }

/-- 40_alu_primitives.md R132, R133 (D24): the 16-bit primitives, carry at bit 15 and half-carry at bit 11. -/
def Obligations.SixteenBitPrimitivesAreExact : Prop :=
  ∀ a b : Word,
    (add16 a b).result.toNat = (a.toNat + b.toNat) % 65536 ∧
    (add16 a b).carry = decide (a.toNat + b.toNat > 65535) ∧
    (add16 a b).half = decide (a.toNat % 4096 + b.toNat % 4096 > 4095) ∧
    (sub16 a b).result.toNat = (a.toNat + 65536 - b.toNat) % 65536 ∧
    (sub16 a b).carry = decide (a.toNat < b.toNat) ∧
    (sub16 a b).half = decide (a.toNat % 4096 < b.toNat % 4096)

/-- 40_alu_primitives.md R136: the two-stage carry-in compositions, and the closed forms that the spec derives from them. -/
def Obligations.CarryInCompositionHasClosedForms : Prop :=
  ∀ (a b : Byte) (cin : Bool),
    (adc8 a b cin).result = (add8 (add8 a b).result (bitByte cin)).result ∧
    (adc8 a b cin).carry = ((add8 a b).carry || (add8 (add8 a b).result (bitByte cin)).carry) ∧
    (adc8 a b cin).half = ((add8 a b).half || (add8 (add8 a b).result (bitByte cin)).half) ∧
    (adc8 a b cin).result.toNat = (a.toNat + b.toNat + cin.toNat) % 256 ∧
    (adc8 a b cin).carry = decide (a.toNat + b.toNat + cin.toNat > 255) ∧
    (adc8 a b cin).half = decide (a.toNat % 16 + b.toNat % 16 + cin.toNat > 15) ∧
    (sbc8 a b cin).result = (sub8 (sub8 a b).result (bitByte cin)).result ∧
    (sbc8 a b cin).carry = ((sub8 a b).carry || (sub8 (sub8 a b).result (bitByte cin)).carry) ∧
    (sbc8 a b cin).half = ((sub8 a b).half || (sub8 (sub8 a b).result (bitByte cin)).half) ∧
    (sbc8 a b cin).result.toNat = (a.toNat + 512 - (b.toNat + cin.toNat)) % 256 ∧
    (sbc8 a b cin).carry = decide (a.toNat < b.toNat + cin.toNat) ∧
    (sbc8 a b cin).half = decide (a.toNat % 16 < b.toNat % 16 + cin.toNat)

/-! ## Decoding and encoding -/

/-- Decoding the encoding of a well-formed instruction gives it back, whatever bytes follow (30_encoding.md R90 to R98,
R105). -/
def Obligations.DecodeInvertsEncode : Prop :=
  ∀ i : Instr, i.wf = true → ∀ rest : List Byte, decode (encode i ++ rest) = .ok (i, rest)

/-- Whatever the decoder yields is well-formed, and its encoding is the bytes it was read from: no two byte sequences mean
one instruction (R97, R98, R101). -/
def Obligations.EncodeInvertsDecode : Prop :=
  ∀ (bs rest : List Byte) (i : Instr), decode bs = .ok (i, rest) → i.wf = true ∧ encode i ++ rest = bs

/-- Any three bytes decode to a well-formed instruction, byte 0 alone gives its length, 1, 2 or 3, and the bytes past the
length do not matter (R90, R91, R101, R102). -/
def Obligations.DecodeIsTotalAndReadsItsLength : Prop :=
  ∀ b0 b1 b2 : Byte,
    (decode3 b0 b1 b2).wf = true ∧ (encode (decode3 b0 b1 b2)).length = lengthOf b0 ∧
    (lengthOf b0 = 1 ∨ lengthOf b0 = 2 ∨ lengthOf b0 = 3) ∧
    (lengthOf b0 = 1 → ∀ c1 c2 : Byte, decode3 b0 c1 c2 = decode3 b0 b1 b2) ∧
    (lengthOf b0 = 2 → ∀ c2 : Byte, decode3 b0 b1 c2 = decode3 b0 b1 b2)

/-- The worked decode examples of R106. -/
def Obligations.WorkedDecodeExamples : Prop :=
  decode [0b01111000] = .ok (.ldrr .a .b, []) ∧ decode [0x36, 0x5A] = .ok (.ldHLn 0x5A, []) ∧
  decode [0x31, 0xFE, 0xFF] = .ok (.ldrrnn .sp 0xFFFE, []) ∧ decode [0xCB, 0b01111100] = .ok (.bitbr 7 .h, []) ∧
  decode [0xCB, 0x36] = .ok (.swapHL, []) ∧ decode [0xF8, 0xFE] = .ok (.ldHLSPpe (BitVec.ofInt 8 (-2)), []) ∧
  decode [0xC3, 0x00, 0x00] = .ok (.jpnn 0, []) ∧ decode [0xDD] = .ok (.illegalDD, []) ∧
  decode [0xCB, 0x87] = .ok (.resbr 0 7, [])

/-! ## One step -/

/-- A step is `exec` of the instruction whose bytes stand at PC, nothing around it: for the bytes as the decoder reads them,
and for the encoding of any well-formed instruction laid out from PC on, wrapping at the top of memory (00_scope.md R7,
30_encoding.md R91; D11). -/
def Obligations.StepRunsTheDecodedInstruction : Prop :=
  ∀ (s : State) (i : Instr),
    (∀ rest, decode [s.memRead1 s.pc, s.memRead1 (s.pc + 1), s.memRead1 (s.pc + 2)] = .ok (i, rest) →
      step s = exec i s) ∧
    (i.wf = true → (∀ k < (encode i).length, s.memRead1 (s.pc + BitVec.ofNat 16 k) = (encode i).getD k 0) →
      step s = exec i s)

/-- What a step answers, by the byte at PC alone, and by the byte after it where the first is 0xCB: the fault of an illegal
byte, the refusal of a byte that is not in the block, else a next state with PC past the instruction (60_exceptions.md R284,
00_scope.md R7). -/
def Obligations.DecodeAloneFixesTheOutcome : Prop :=
  ∀ s : State,
    if s.memRead1 s.pc ∈ illegalBytes then step s = .fault (.illegalOpcode (s.memRead1 s.pc))
    else if s.memRead1 s.pc ∈ notInCoreBytes then step s = .refused (.notInCore (s.memRead1 s.pc))
    else if s.memRead1 s.pc = 0xCB ∧ 0x80 ≤ (s.memRead1 (s.pc + 1)).toNat then
      step s = .refused (.notInCoreCB (s.memRead1 (s.pc + 1)))
    else ∃ t, step s = .next t ∧ t.pc = s.pc + BitVec.ofNat 16 (lengthOf (s.memRead1 s.pc))

/-- A store of any instruction of the block is seen by the next fetch, and one into the storing instruction's own bytes does
not change that execution (20_memory.md R72, 70_reset_and_hazards.md R306; D11, and D8, log entry 5, for the address of an LDH
form). Whatever instruction of the block stands at
PC, the step is `exec` of the bytes as they were before it, memory is then as before but for the bytes of `stores`, which lie
in the cells of `cellsWritten`, and the next step runs what the memory so changed holds from the new PC on. -/
def Obligations.StoreIsSeenByTheNextFetch : Prop :=
  ∀ (s : State) (i : Instr), i.status = .core →
    (∀ k < (encode i).length, s.memRead1 (s.pc + BitVec.ofNat 16 k) = (encode i).getD k 0) →
    (stores i s).map Prod.fst = cellsWritten i s ∧
    ∃ t, step s = .next t ∧ exec i s = .next t ∧ t.pc = s.pc + BitVec.ofNat 16 (encode i).length ∧
      (∀ a : Word, t.memRead1 a = byteAfter (stores i s) s a) ∧
      ∀ j rest, decode ([t.pc, t.pc + 1, t.pc + 2].map (byteAfter (stores i s) s)) = .ok (j, rest) → step t = exec j t

/-- `PUSHrr` followed by `POPrr` of the same register restores the register and SP at every SP, if the two pushed cells are
not the byte of the POP (42_stack.md R180); for AF it restores A and the four flags, and clears bits 3 to 0 of F (R183, D9).
-/
def Obligations.PushThenPopRestores : Prop :=
  (∀ (p : Pair) (s : State),
    s.memRead1 s.pc = 0xC5 + 16 * p.code → s.memRead1 (s.pc + 1) = 0xC1 + 16 * p.code →
    s.pc + 1 ≠ s.sp - 2 → s.pc + 1 ≠ s.sp - 1 →
    ∃ t u, step s = .next t ∧ step t = .next u ∧ u.pc = s.pc + 2 ∧ u.sp = s.sp ∧ u.get16 p.reg = s.get16 p.reg ∧
      Frame [] [] [] [s.sp - 2, s.sp - 1] s u) ∧
  ∀ s : State,
    s.memRead1 s.pc = 0xF5 → s.memRead1 (s.pc + 1) = 0xF1 → s.pc + 1 ≠ s.sp - 2 → s.pc + 1 ≠ s.sp - 1 →
    ∃ t u, step s = .next t ∧ step t = .next u ∧ u.pc = s.pc + 2 ∧ u.sp = s.sp ∧ u.get8 .a = s.get8 .a ∧
      (∀ f : Flag, u.flag f = s.flag f) ∧ u.fLow = 0 ∧ u.bc = s.bc ∧ u.de = s.de ∧ u.hl = s.hl ∧ u.ir = s.ir ∧
      u.ie = s.ie ∧ ∀ a : Word, a ≠ s.sp - 2 → a ≠ s.sp - 1 → u.memRead1 a = s.memRead1 a

/-! ## The load family -/

/-- R141, R142, R143 of 41_load.md: a halve takes the halve, the immediate, or the byte at HL as it was before. That byte 0x06
+ 8r is a load of an immediate is the spec's decision D7. -/
def Obligations.LoadIntoHalve : Prop :=
  ∀ (s : State) (dst : R8),
    (∀ src : R8, Does (.ldrr dst src) [0x40 + 8 * dst.code + src.code] s [dst.half] [] [] [] fun t =>
      t.get8 dst.half = s.get8 src.half) ∧
    (∀ n : Byte, Does (.ldrn dst n) [0x06 + 8 * dst.code, n] s [dst.half] [] [] [] fun t => t.get8 dst.half = n) ∧
    Does (.ldrHL dst) [0x46 + 8 * dst.code] s [dst.half] [] [] [] fun t => t.get8 dst.half = s.memRead1 s.hl

/-- R144, R145: the byte at HL takes a halve or the immediate. -/
def Obligations.StoreThroughHL : Prop :=
  ∀ s : State,
    (∀ r : R8, Does (.ldHLr r) [0x70 + r.code] s [] [] [] [s.hl] fun t => t.memRead1 s.hl = s.get8 r.half) ∧
    ∀ n : Byte, Does (.ldHLn n) [0x36, n] s [] [] [] [s.hl] fun t => t.memRead1 s.hl = n

/-- R146 to R151: A and the byte at BC, at DE or at the little-endian immediate address. -/
def Obligations.AccumulatorThroughPairOrAddress : Prop :=
  ∀ (s : State) (nn : Word),
    Does .ldaBC [0x0A] s [.a] [] [] [] (fun t => t.get8 .a = s.memRead1 s.bc) ∧
    Does .ldaDE [0x1A] s [.a] [] [] [] (fun t => t.get8 .a = s.memRead1 s.de) ∧
    Does .ldBCa [0x02] s [] [] [] [s.bc] (fun t => t.memRead1 s.bc = s.get8 .a) ∧
    Does .ldDEa [0x12] s [] [] [] [s.de] (fun t => t.memRead1 s.de = s.get8 .a) ∧
    Does (.ldAnn nn) [0xFA, loByte nn, hiByte nn] s [.a] [] [] [] (fun t => t.get8 .a = s.memRead1 nn) ∧
    Does (.ldnnA nn) [0xEA, loByte nn, hiByte nn] s [] [] [] [nn] (fun t => t.memRead1 nn = s.get8 .a)

/-- R152 to R155: the LDH forms, at 0xFF00 plus halve C or the immediate, a sum that never wraps. The base is the spec's
decision D8 (log entry 5). -/
def Obligations.HighPageLoadsAndStores : Prop :=
  (∀ v : Byte, (ldhAddr v).toNat = 0xFF00 + v.toNat) ∧
  ∀ (s : State) (n : Byte),
    Does .ldhaC [0xF2] s [.a] [] [] [] (fun t => t.get8 .a = s.memRead1 (ldhAddr (s.get8 .c))) ∧
    Does .ldhCa [0xE2] s [] [] [] [ldhAddr (s.get8 .c)] (fun t => t.memRead1 (ldhAddr (s.get8 .c)) = s.get8 .a) ∧
    Does (.ldhAn n) [0xF0, n] s [.a] [] [] [] (fun t => t.get8 .a = s.memRead1 (ldhAddr n)) ∧
    Does (.ldhnA n) [0xE0, n] s [] [] [] [ldhAddr n] (fun t => t.memRead1 (ldhAddr n) = s.get8 .a)

/-- R156 to R159: A and the byte at HL, the access by HL before it changes, then HL minus or plus 1, mod 65536. -/
def Obligations.LoadsAndStoresThatStepHL : Prop :=
  ∀ s : State,
    Does .ldaHLm [0x3A] s [.a, .h, .l] [] [] [] (fun t =>
      t.get8 .a = s.memRead1 s.hl ∧ t.hl.toNat = (s.hl.toNat + 65535) % 65536) ∧
    Does .ldaHLp [0x2A] s [.a, .h, .l] [] [] [] (fun t =>
      t.get8 .a = s.memRead1 s.hl ∧ t.hl.toNat = (s.hl.toNat + 1) % 65536) ∧
    Does .ldHLam [0x32] s [.h, .l] [] [] [s.hl] (fun t =>
      t.memRead1 s.hl = s.get8 .a ∧ t.hl.toNat = (s.hl.toNat + 65535) % 65536) ∧
    Does .ldHLap [0x22] s [.h, .l] [] [] [s.hl] (fun t =>
      t.memRead1 s.hl = s.get8 .a ∧ t.hl.toNat = (s.hl.toNat + 1) % 65536)

/-- R160 to R162: the 16-bit loads; SP stored low byte first, `nn + 1` with wrap. -/
def Obligations.SixteenBitLoads : Prop :=
  ∀ (s : State) (nn : Word),
    (∀ rr : Rp, Does (.ldrrnn rr nn) [0x01 + 16 * rr.code, loByte nn, hiByte nn] s rr.reg.halves [] [rr.reg] [] fun t =>
      t.get16 rr.reg = nn) ∧
    Does (.ldnnSP nn) [0x08, loByte nn, hiByte nn] s [] [] [] [nn, nn + 1] (fun t =>
      t.memRead1 nn = loByte s.sp ∧ t.memRead1 (nn + 1) = hiByte s.sp) ∧
    Does .ldSPHL [0xF9] s [] [] [.sp] [] (fun t => t.sp = s.hl)

/-- R163 and R211: HL, or SP, takes SP plus the sign-extended offset mod 65536; Z and N are cleared; H and C are those of the
unsigned addition of the offset byte to the low byte of SP. Z = 0 for `ADDSPpe` is the spec's decision D20. -/
def Obligations.SignedOffsetFromSP : Prop :=
  ∀ (s : State) (e : Byte),
    Does (.ldHLSPpe e) [0xF8, e] s [.h, .l] allFlags [] [] (fun t =>
      t.hl = s.sp + BitVec.ofInt 16 e.toInt ∧ t.flag .z = false ∧ t.flag .n = false ∧
        t.flag .h = decide (s.sp.toNat % 16 + e.toNat % 16 > 15) ∧ t.flag .c = decide (s.sp.toNat % 256 + e.toNat > 255)) ∧
    Does (.addSPpe e) [0xE8, e] s [] allFlags [.sp] [] (fun t =>
      t.sp = s.sp + BitVec.ofInt 16 e.toInt ∧ t.flag .z = false ∧ t.flag .n = false ∧
        t.flag .h = decide (s.sp.toNat % 16 + e.toNat % 16 > 15) ∧ t.flag .c = decide (s.sp.toNat % 256 + e.toNat > 255))

/-! ## The stack family -/

/-- 42_stack.md R181: SP minus 2 mod 65536, then the low halve at the new SP and the high halve above it; all eight bits of
F for AF. -/
def Obligations.PushStoresBelowSP : Prop :=
  ∀ (s : State) (rr : Rp2),
    Does (.pushrr rr) [0xC5 + 16 * rr.code] s [] [] [.sp] [s.sp - 2, s.sp - 1] fun t =>
      t.sp.toNat = (s.sp.toNat + 65534) % 65536 ∧ t.memRead1 (s.sp - 2) = loByte (s.get16 rr.reg) ∧
        t.memRead1 (s.sp - 1) = hiByte (s.get16 rr.reg)

/-- R182: BC, DE or HL takes the word at SP, and SP moves up by 2 mod 65536. -/
def Obligations.PopLoadsPairFromSP : Prop :=
  ∀ (s : State) (rr : Pair),
    Does (.poprr rr) [0xC1 + 16 * rr.code] s rr.reg.halves [] [.sp] [] fun t =>
      t.get16 rr.reg = s.memRead1 (s.sp + 1) ++ s.memRead1 s.sp ∧ t.sp.toNat = (s.sp.toNat + 2) % 65536

/-- R183: A takes the byte at SP + 1, the flags bits 7 to 4 of the byte at SP, and bits 3 to 0 of F are written as 0. The mask
is the spec's decision D9 (log entry 7). -/
def Obligations.PopAFMasksTheLowNibble : Prop :=
  ∀ s : State,
    Encodes .popAF [0xF1] ∧
    ∃ t, exec .popAF s = .next t ∧ t.pc = s.pc + 1 ∧ t.sp.toNat = (s.sp.toNat + 2) % 65536 ∧
      t.get8 .a = s.memRead1 (s.sp + 1) ∧ t.get8 .f = s.memRead1 s.sp &&& 0xF0 ∧
      t.flag .z = (s.memRead1 s.sp).getLsbD 7 ∧ t.flag .n = (s.memRead1 s.sp).getLsbD 6 ∧
      t.flag .h = (s.memRead1 s.sp).getLsbD 5 ∧ t.flag .c = (s.memRead1 s.sp).getLsbD 4 ∧ t.fLow = 0 ∧
      t.bc = s.bc ∧ t.de = s.de ∧ t.hl = s.hl ∧ t.ir = s.ir ∧ t.ie = s.ie ∧
      ∀ a : Word, t.memRead1 a = s.memRead1 a

/-! ## The arithmetic family -/

/-- 43_arithmetic.md R191 to R196: `ADD` and `ADC`, the incoming carry being the flag C before the instruction. -/
def Obligations.AddAndAdc : Prop :=
  ∀ s : State,
    (ThreeForms .addr .addHL .addn 0x80 0xC6 s [.a] fun v t => SumInA (s.get8 .a).toNat v.toNat 0 t) ∧
    ThreeForms .adcr .adcHL .adcn 0x88 0xCE s [.a] fun v t => SumInA (s.get8 .a).toNat v.toNat (s.flag .c).toNat t

/-- R197 to R202: `SUB` and `SBC`. -/
def Obligations.SubAndSbc : Prop :=
  ∀ s : State,
    (ThreeForms .subr .subHL .subn 0x90 0xD6 s [.a] fun v t => DiffInA (s.get8 .a).toNat v.toNat 0 t) ∧
    ThreeForms .sbcr .sbcHL .sbcn 0x98 0xDE s [.a] fun v t => DiffInA (s.get8 .a).toNat v.toNat (s.flag .c).toNat t

/-- R203 to R205: `CP` writes the flags of `SUB` and no halve, so Z says that the operands are equal and C that A is the
smaller. -/
def Obligations.CompareWritesFlagsOnly : Prop :=
  ∀ s : State,
    ThreeForms .cpr .cpHL .cpn 0xB8 0xFE s [] fun v t =>
      DiffFlags (s.get8 .a).toNat v.toNat 0 t ∧ (t.flag .z = true ↔ s.get8 .a = v) ∧
        (t.flag .c = true ↔ (s.get8 .a).toNat < v.toNat)

/-- R206, R207: `INC` adds 1 mod 256 to a halve or to the byte at HL, and never touches C. -/
def Obligations.Increment : Prop :=
  ∀ s : State,
    (∀ r : R8, Does (.incr r) [0x04 + 8 * r.code] s [r.half] [.z, .n, .h] [] [] fun t =>
      (t.get8 r.half).toNat = ((s.get8 r.half).toNat + 1) % 256 ∧ t.flag .z = decide ((s.get8 r.half).toNat = 255) ∧
        t.flag .n = false ∧ t.flag .h = decide ((s.get8 r.half).toNat % 16 = 15)) ∧
    Does .incHL [0x34] s [] [.z, .n, .h] [] [s.hl] fun t =>
      (t.memRead1 s.hl).toNat = ((s.memRead1 s.hl).toNat + 1) % 256 ∧ t.flag .z = decide ((s.memRead1 s.hl).toNat = 255) ∧
        t.flag .n = false ∧ t.flag .h = decide ((s.memRead1 s.hl).toNat % 16 = 15)

/-- R208, R209: `DEC` takes 1 mod 256 from a halve or from the byte at HL, and never touches C. -/
def Obligations.Decrement : Prop :=
  ∀ s : State,
    (∀ r : R8, Does (.decr r) [0x05 + 8 * r.code] s [r.half] [.z, .n, .h] [] [] fun t =>
      (t.get8 r.half).toNat = ((s.get8 r.half).toNat + 255) % 256 ∧ t.flag .z = decide ((s.get8 r.half).toNat = 1) ∧
        t.flag .n = true ∧ t.flag .h = decide ((s.get8 r.half).toNat % 16 = 0)) ∧
    Does .decHL [0x35] s [] [.z, .n, .h] [] [s.hl] fun t =>
      (t.memRead1 s.hl).toNat = ((s.memRead1 s.hl).toNat + 255) % 256 ∧ t.flag .z = decide ((s.memRead1 s.hl).toNat = 1) ∧
        t.flag .n = true ∧ t.flag .h = decide ((s.memRead1 s.hl).toNat % 16 = 0)

/-- R210: HL plus BC, DE, HL or SP mod 65536, half-carry at bit 11, carry at bit 15, and Z of the 16-bit result, which is the
normative profile `Doc` (D10, log entry 3). -/
def Obligations.AddToHL : Prop :=
  ∀ (s : State) (rr : Rp),
    Does (.addHLrr rr) [0x09 + 16 * rr.code] s [.h, .l] allFlags [] [] fun t =>
      t.hl.toNat = (s.hl.toNat + (s.get16 rr.reg).toNat) % 65536 ∧
        t.flag .z = decide ((s.hl.toNat + (s.get16 rr.reg).toNat) % 65536 = 0) ∧ t.flag .n = false ∧
        t.flag .h = decide (s.hl.toNat % 4096 + (s.get16 rr.reg).toNat % 4096 > 4095) ∧
        t.flag .c = decide (s.hl.toNat + (s.get16 rr.reg).toNat > 65535)

/-! ## The bitwise family -/

/-- 44_bitwise.md R221 to R229: AND, OR and XOR into A, bit by bit; Z from the result, N = C = 0, H = 1 for AND and 0 for the
others. -/
def Obligations.BitwiseIntoA : Prop :=
  ∀ s : State,
    (ThreeForms .andr .andHL .andn 0xA0 0xE6 s [.a] fun v t =>
      (∀ k < 8, (t.get8 .a).getLsbD k = ((s.get8 .a).getLsbD k && v.getLsbD k)) ∧
        t.flag .z = decide (t.get8 .a = 0) ∧ t.flag .n = false ∧ t.flag .h = true ∧ t.flag .c = false) ∧
    (ThreeForms .orr .orHL .orn 0xB0 0xF6 s [.a] fun v t =>
      (∀ k < 8, (t.get8 .a).getLsbD k = ((s.get8 .a).getLsbD k || v.getLsbD k)) ∧
        t.flag .z = decide (t.get8 .a = 0) ∧ t.flag .n = false ∧ t.flag .h = false ∧ t.flag .c = false) ∧
    ThreeForms .xorr .xorHL .xorn 0xA8 0xEE s [.a] fun v t =>
      (∀ k < 8, (t.get8 .a).getLsbD k = ((s.get8 .a).getLsbD k ^^ v.getLsbD k)) ∧
        t.flag .z = decide (t.get8 .a = 0) ∧ t.flag .n = false ∧ t.flag .h = false ∧ t.flag .c = false

/-! ## The flag and accumulator family -/

/-- 45_flag_accumulator.md R231, R232, R234: `CCF`, `SCF` and `CPL`. -/
def Obligations.FlagAndComplementInstructions : Prop :=
  ∀ s : State,
    Does .ccf [0x3F] s [] [.n, .h, .c] [] [] (fun t =>
      t.flag .c = !s.flag .c ∧ t.flag .n = false ∧ t.flag .h = false) ∧
    Does .scf [0x37] s [] [.n, .h, .c] [] [] (fun t => t.flag .c = true ∧ t.flag .n = false ∧ t.flag .h = false) ∧
    Does .cpl [0x2F] s [.a] [.n, .h] [] [] fun t =>
      (t.get8 .a).toNat = 255 - (s.get8 .a).toNat ∧ t.flag .n = true ∧ t.flag .h = true

/-- R233: the offset of `DAA` in exact numbers, the value tests only where N = 0, both on the A before it; C set where the
second condition holds and else 0, N kept. The function is the spec's decision D21. -/
def Obligations.DecimalAdjust : Prop :=
  ∀ s : State,
    Does .daa [0x27] s [.a] [.z, .h, .c] [] [] fun t =>
      let a := (s.get8 .a).toNat
      let low := (s.flag .n = false ∧ a % 16 > 9) ∨ s.flag .h = true
      let high := (s.flag .n = false ∧ a > 0x99) ∨ s.flag .c = true
      let off := (if low then 6 else 0) + (if high then 0x60 else 0)
      (t.get8 .a).toNat = (if s.flag .n then (a + 256 - off) % 256 else (a + off) % 256) ∧
        t.flag .z = decide (t.get8 .a = 0) ∧ t.flag .h = false ∧ t.flag .c = decide high

/-- `DAA` right after an addition or a subtraction of two BCD bytes, in each of the three forms, gives the BCD byte of the
decimal result, and C its decimal carry or borrow (R233's "re-biases A into binary-coded-decimal form",
70_reset_and_hazards.md R307; that it is so for all of them follows from the rules and is not a rule). -/
def Obligations.DecimalArithmeticIsCorrect : Prop :=
  ∀ (s : State) (n m : Nat), n < 100 → m < 100 → s.get8 .a = bcd n →
    let c := (s.flag .c).toNat
    ThreeFormsThenDaa .addr .addHL .addn s m ((n + m) % 100) (decide (n + m ≥ 100)) ∧
    ThreeFormsThenDaa .adcr .adcHL .adcn s m ((n + m + c) % 100) (decide (n + m + c ≥ 100)) ∧
    ThreeFormsThenDaa .subr .subHL .subn s m ((n + 100 - m) % 100) (decide (n < m)) ∧
    ThreeFormsThenDaa .sbcr .sbcHL .sbcn s m ((n + 100 - (m + c)) % 100) (decide (n < m + c))

/-! ## The rotate, shift and swap family -/

/-- 46_rotate_shift.md R241 to R244: the accumulator forms; under the normative profile C is the one flag they write (D10,
log entry 3). -/
def Obligations.RotateAccumulator : Prop :=
  ∀ s : State,
    Does .rlca [0x07] s [.a] [.c] [] [] (fun t =>
      MovedLeft (s.get8 .a) ((s.get8 .a).getLsbD 7) (t.get8 .a) ∧ t.flag .c = (s.get8 .a).getLsbD 7) ∧
    Does .rrca [0x0F] s [.a] [.c] [] [] (fun t =>
      MovedRight (s.get8 .a) ((s.get8 .a).getLsbD 0) (t.get8 .a) ∧ t.flag .c = (s.get8 .a).getLsbD 0) ∧
    Does .rla [0x17] s [.a] [.c] [] [] (fun t =>
      MovedLeft (s.get8 .a) (s.flag .c) (t.get8 .a) ∧ t.flag .c = (s.get8 .a).getLsbD 7) ∧
    Does .rra [0x1F] s [.a] [.c] [] [] fun t =>
      MovedRight (s.get8 .a) (s.flag .c) (t.get8 .a) ∧ t.flag .c = (s.get8 .a).getLsbD 0

/-- R245 to R252: the CB-prefixed rotates, circular and through carry, of a halve or of the byte at HL, under the normative
profile (D10, log entry 3). -/
def Obligations.RotateHalveOrMemory : Prop :=
  ∀ s : State,
    (TwoForms .rlcr .rlcHL 0x00 s [.c] fun v res t => MovedLeft v (v.getLsbD 7) res ∧ t.flag .c = v.getLsbD 7) ∧
    (TwoForms .rrcr .rrcHL 0x08 s [.c] fun v res t => MovedRight v (v.getLsbD 0) res ∧ t.flag .c = v.getLsbD 0) ∧
    (TwoForms .rlr .rlHL 0x10 s [.c] fun v res t => MovedLeft v (s.flag .c) res ∧ t.flag .c = v.getLsbD 7) ∧
    TwoForms .rrr .rrHL 0x18 s [.c] fun v res t => MovedRight v (s.flag .c) res ∧ t.flag .c = v.getLsbD 0

/-- R253 to R258: the shifts; zero shifted in by SLA and SRL, bit 7 kept by SRA, which halves the signed value toward minus
infinity. That C is the departing bit is the spec's decision D12 (log entry 6). -/
def Obligations.ShiftHalveOrMemory : Prop :=
  ∀ s : State,
    (TwoForms .slar .slaHL 0x20 s [.c] fun v res t => MovedLeft v false res ∧ t.flag .c = v.getLsbD 7) ∧
    (TwoForms .srar .sraHL 0x28 s [.c] fun v res t =>
      MovedRight v (v.getLsbD 7) res ∧ res.toInt = v.toInt / 2 ∧ t.flag .c = v.getLsbD 0) ∧
    TwoForms .srlr .srlHL 0x38 s [.c] fun v res t => MovedRight v false res ∧ t.flag .c = v.getLsbD 0

/-- R259, R260: the nibbles exchanged; Z from the result, N = H = C = 0. -/
def Obligations.SwapNibbles : Prop :=
  ∀ s : State,
    TwoForms .swapr .swapHL 0x30 s allFlags fun v res t =>
      res.toNat = v.toNat % 16 * 16 + v.toNat / 16 ∧ t.flag .z = decide (res = 0) ∧ t.flag .n = false ∧
        t.flag .h = false ∧ t.flag .c = false

/-- 00_scope.md R3, R210, R240 (e): the profile `Silicon` (general knowledge, D10; log entry 3), as the three differences from
`Doc`. -/
def Obligations.SiliconProfileDifferences : Prop :=
  ∀ s : State,
    (∀ rr : Rp, ∃ t u, exec (.addHLrr rr) s = .next t ∧ execUnder .silicon (.addHLrr rr) s = .next u ∧ u.pc = t.pc ∧
      Frame [] [.z] [] [] t u ∧ u.flag .z = s.flag .z) ∧
    (∀ i ∈ [Instr.rlca, .rrca, .rla, .rra], SiliconFlags i s fun _ => false) ∧
    (∀ r : R8, ∀ i ∈ [Instr.rlcr r, .rrcr r, .rlr r, .rrr r, .slar r, .srar r, .srlr r],
      SiliconFlags i s fun t => t.get8 r.half == 0) ∧
    ∀ i ∈ [Instr.rlcHL, .rrcHL, .rlHL, .rrHL, .slaHL, .sraHL, .srlHL], SiliconFlags i s fun t => t.memRead1 s.hl == 0

/-- R3: nothing else depends on the profile; the default is `Doc`; and where the profiles differ they differ in Z, N and H
only (R240 (e)). -/
def Obligations.ProfilesDifferNowhereElse : Prop :=
  ∀ (i : Instr) (s : State),
    execUnder .doc i s = exec i s ∧ (profiled i = false → ∀ p : FlagProfile, execUnder p i s = exec i s) ∧
    match exec i s with
    | .next t => ∃ u, execUnder .silicon i s = .next u ∧ u.pc = t.pc ∧ Frame [] [.z, .n, .h] [] [] t u
    | .fault r => execUnder .silicon i s = .fault r
    | .refused r => execUnder .silicon i s = .refused r

/-! ## The bit-test family -/

/-- 47_bit_test.md R271, R272: Z is the complement of the tested bit, N = 0, H = 1; C, the operand and memory untouched. -/
def Obligations.TestBit : Prop :=
  ∀ (s : State) (b : BitVec 3),
    (∀ r : R8, Does (.bitbr b r) [0xCB, 0x40 + 8 * b.setWidth 8 + r.code] s [] [.z, .n, .h] [] [] fun t =>
      t.flag .z = !(s.get8 r.half).getLsbD b.toNat ∧ t.flag .n = false ∧ t.flag .h = true) ∧
    Does (.bitbHL b) [0xCB, 0x46 + 8 * b.setWidth 8] s [] [.z, .n, .h] [] [] fun t =>
      t.flag .z = !(s.memRead1 s.hl).getLsbD b.toNat ∧ t.flag .n = false ∧ t.flag .h = true

/-! ## The prefix, the illegal bytes and the bytes that are not in the block -/

/-- That the prefix row is a constructor, and that its meaning runs the row that `op2` selects, is the model's own choice
(DEDUCED, log entry 17): the spec says only that 0xCB and `op2` are one instruction, decoded by `op2` (30_encoding.md R96,
R98), and never an instruction by the prefix alone (R101). So chosen, the row completes for `op2` below 0x80, advancing PC by
2, and is refused from 0x80 up, as the rows it runs are (R100). -/
def Obligations.PrefixRowIsTheSelectedRow : Prop :=
  ∀ (s : State) (op2 : Byte),
    exec (.prefixCB op2) s = exec (decodeCB op2) s ∧ (encode (decodeCB op2) = [0xCB, op2]) ∧
    if op2.toNat < 0x80 then ∃ t, exec (.prefixCB op2) s = .next t ∧ t.pc = s.pc + 2
    else exec (.prefixCB op2) s = .refused (.notInCoreCB op2)

/-- 60_exceptions.md R281, 30_encoding.md R99 (D6): the eleven bytes that encode nothing fault with their byte; the fault
carries no state, so none changes. -/
def Obligations.IllegalBytesFault : Prop :=
  (∀ s : State,
    exec .illegalD3 s = .fault (.illegalOpcode 0xD3) ∧ exec .illegalDB s = .fault (.illegalOpcode 0xDB) ∧
    exec .illegalDD s = .fault (.illegalOpcode 0xDD) ∧ exec .illegalE3 s = .fault (.illegalOpcode 0xE3) ∧
    exec .illegalE4 s = .fault (.illegalOpcode 0xE4) ∧ exec .illegalEB s = .fault (.illegalOpcode 0xEB) ∧
    exec .illegalEC s = .fault (.illegalOpcode 0xEC) ∧ exec .illegalED s = .fault (.illegalOpcode 0xED) ∧
    exec .illegalF4 s = .fault (.illegalOpcode 0xF4) ∧ exec .illegalFC s = .fault (.illegalOpcode 0xFC) ∧
    exec .illegalFD s = .fault (.illegalOpcode 0xFD)) ∧
  ∀ (s : State) (op : Byte), step s = .fault (.illegalOpcode op) ↔ s.memRead1 s.pc = op ∧ op ∈ illegalBytes

/-- 60_exceptions.md R282, 30_encoding.md R100 (D5): the instructions that are not in the block are refused with their byte,
RES and SET with the byte after 0xCB; the refusal carries no state, so none changes. -/
def Obligations.InstructionsNotInTheBlockAreRefused : Prop :=
  ∀ s : State,
    (exec .nop s = .refused (.notInCore 0x00) ∧ exec .stop s = .refused (.notInCore 0x10) ∧
      exec .halt s = .refused (.notInCore 0x76) ∧ exec .jpHL s = .refused (.notInCore 0xE9) ∧
      exec .ret s = .refused (.notInCore 0xC9) ∧ exec .reti s = .refused (.notInCore 0xD9) ∧
      exec .di s = .refused (.notInCore 0xF3) ∧ exec .ei s = .refused (.notInCore 0xFB)) ∧
    (∀ e : Byte, exec (.jre e) s = .refused (.notInCore 0x18)) ∧
    (∀ nn : Word, exec (.jpnn nn) s = .refused (.notInCore 0xC3) ∧ exec (.callnn nn) s = .refused (.notInCore 0xCD)) ∧
    (∀ (cc : BitVec 2) (e : Byte) (nn : Word),
      exec (.jrcce cc e) s = .refused (.notInCore (0x20 + 8 * cc.setWidth 8)) ∧
      exec (.jpccnn cc nn) s = .refused (.notInCore (0xC2 + 8 * cc.setWidth 8)) ∧
      exec (.callccnn cc nn) s = .refused (.notInCore (0xC4 + 8 * cc.setWidth 8)) ∧
      exec (.retcc cc) s = .refused (.notInCore (0xC0 + 8 * cc.setWidth 8))) ∧
    (∀ rr : Rp, exec (.incrr rr) s = .refused (.notInCore (0x03 + 16 * rr.code)) ∧
      exec (.decrr rr) s = .refused (.notInCore (0x0B + 16 * rr.code))) ∧
    ∀ b r : BitVec 3,
      exec (.rstt b) s = .refused (.notInCore (0xC7 + 8 * b.setWidth 8)) ∧
      exec (.resbr b r) s = .refused (.notInCoreCB (0x80 + 8 * b.setWidth 8 + r.setWidth 8)) ∧
      exec (.setbr b r) s = .refused (.notInCoreCB (0xC0 + 8 * b.setWidth 8 + r.setWidth 8))

/-! ## Rules about all instructions -/

/-- R27, R280, R290: every instruction of the block completes in every state, and PC moves on by the length of its encoding,
mod 65536, and in no other way. -/
def Obligations.CoreInstructionsCompleteAndAdvancePC : Prop :=
  ∀ (i : Instr) (s : State), i.status = .core →
    ∃ t, exec i s = .next t ∧ t.pc.toNat = (s.pc.toNat + (encode i).length) % 65536

/-- R29, R30 (D13): no step writes IR or IE, and none depends on them. -/
def Obligations.StepNeitherReadsNorWritesIRAndIE : Prop :=
  ∀ (s : State) (ir ie : Word),
    (∀ t, step s = .next t → t.ir = s.ir ∧ t.ie = s.ie) ∧
    step ((s.set16 .ir ir).set16 .ie ie) = mapNext (fun t => (t.set16 .ir ir).set16 .ie ie) (step s)

/-- R35: an instruction changes no flag that the flag table does not list for it. -/
def Obligations.UnlistedFlagsAreUntouched : Prop :=
  ∀ (i : Instr) (s t : State) (f : Flag), exec i s = .next t → f ∉ flagsWritten i → t.flag f = s.flag f

/-- R67: an instruction changes no cell that the access table does not list for it. -/
def Obligations.UnlistedCellsAreUntouched : Prop :=
  ∀ (i : Instr) (s t : State) (a : Word), exec i s = .next t → a ∉ cellsWritten i s → t.memRead1 a = s.memRead1 a

/-- R28: SP is written by `LDrrnn` with SP, `LDSPHL`, `ADDSPpe`, `PUSHrr` and the pops, and by nothing else. -/
def Obligations.SPIsWrittenByItsFiveOnly : Prop :=
  ∀ (i : Instr) (s t : State), exec i s = .next t → writesSP i = false → t.sp = s.sp

/-- R36: bits 3 to 0 of F are written by `POP AF` only, which clears them, so no instruction turns one from 0 to 1 (R26). -/
def Obligations.LowNibbleOfFIsWrittenByPopAFOnly : Prop :=
  ∀ (i : Instr) (s t : State), exec i s = .next t → t.fLow = if i = .popAF then 0 else s.fLow

/-! ## The invariant -/

/-- The reset state meets the invariant: canonical memory, and `FLowZero` of the register values that log entry 1 chooses. -/
def Obligations.ResetMeetsTheInvariant : Prop :=
  Inv State.reset

/-- Every step keeps the memory list canonical (rising addresses below 65,536, no cell equal to an unlisted one), so equal
memories stay equal data; the form is the model's (log entry 2). -/
def Obligations.StepKeepsMemoryCanonical : Prop :=
  ∀ s t : State, s.mem.wf = true → step s = .next t → t.mem.wf = true

/-- R26's consequence: if bits 3 to 0 of F are 0 they are 0 after every step, and every byte that `PUSH AF` stores as F has a
zero low nibble. -/
def Obligations.StepKeepsLowNibbleZero : Prop :=
  ∀ s t : State, FLowZero s → step s = .next t →
    FLowZero t ∧ (fetch s = .pushrr .af → (t.memRead1 (s.sp - 2)).toNat % 16 = 0)
end

