-- ==== Sys2Proof/Laws/Decode.lean ====
section
/-! SUPPORT. Decoding a list of bytes, by the length that byte 0 gives. -/

namespace Sys2Proof

variable {b0 b1 b2 : Byte} {rest : List Byte}

theorem decode_one (h : lengthOf b0 = 1) :
    decode (b0 :: rest) = .ok (decode3 b0 (rest.getD 0 0) (rest.getD 1 0), rest) := by
  simp [decode, h]

theorem decode_two (h : lengthOf b0 = 2) :
    decode (b0 :: b1 :: rest) = .ok (decode3 b0 b1 (rest.getD 0 0), rest) := by
  simp [decode, h]

theorem decode_three (h : lengthOf b0 = 3) :
    decode (b0 :: b1 :: b2 :: rest) = .ok (decode3 b0 b1 b2, rest) := by
  simp [decode, h]

/-- What the decoder did where it answered an instruction. -/
theorem decode_eq_ok {r : List Byte} {i : Instr} (h : decode (b0 :: r) = .ok (i, rest)) :
    lengthOf b0 ≤ r.length + 1 ∧ decode3 b0 (r.getD 0 0) (r.getD 1 0) = i ∧ r.drop (lengthOf b0 - 1) = rest := by
  replace h : (if r.length + 1 < lengthOf b0 then Except.error (DecodeError.truncated b0)
      else .ok (decode3 b0 (r.getD 0 0) (r.getD 1 0), r.drop (lengthOf b0 - 1))) = .ok (i, rest) := h
  by_cases hl : r.length + 1 < lengthOf b0
  · rw [if_pos hl] at h
    cases h
  · rw [if_neg hl] at h
    injection h with h
    injection h with h1 h2
    exact ⟨by omega, h1, h2⟩

/-- After 0xCB the second byte alone decides (R96, R98). -/
theorem decode3_prefix (op2 b : Byte) : decode3 0xCB op2 b = decodeCB op2 := rfl

/-- Byte 0 says the length, which is 1, 2 or 3 (30_encoding.md R90, R102). -/
theorem lengthOf_cases (b : Byte) : lengthOf b = 1 ∨ lengthOf b = 2 ∨ lengthOf b = 3 := by
  unfold lengthOf
  repeat' split
  all_goals simp

end Sys2Proof
end

