-- ==== Sys2Proof/Laws/Memory.lean ====
section
/-! SUPPORT. The laws of the memory list: reads after writes, which need no premise on the list, and the canonical form,
which every write keeps. -/

namespace Sys2Proof.Machine

theorem Memory.read_eq_unlisted_of_lt {m : Memory} {a b : Nat} {v : Byte} (h : a < b) :
    Memory.read ((b, v) :: m) a = Config.unlistedByte := by
  simp [Memory.read, h, Nat.ne_of_lt h]

/-- What the write leaves of the tail reads, at every address above `a`, as the tail did. -/
theorem Memory.read_dropWhile {m : Memory} {a c : Nat} (h : a < c) :
    Memory.read (m.dropWhile fun x => decide (x.1 ≤ a)) c = Memory.read m c := by
  induction m with
  | nil => rfl
  | cons x rest ih =>
    obtain ⟨b, v⟩ := x
    by_cases hb : b ≤ a
    · rw [List.dropWhile_cons_of_pos (by simpa using hb), ih]
      simp [Memory.read, show c ≠ b by omega, show ¬ c < b by omega]
    · rw [List.dropWhile_cons_of_neg (by simpa using hb)]

/-- What the write leaves of the tail names no address up to `a`. -/
theorem Memory.read_dropWhile_le {m : Memory} {a c : Nat} (h : c ≤ a) :
    Memory.read (m.dropWhile fun x => decide (x.1 ≤ a)) c = Config.unlistedByte := by
  induction m with
  | nil => rfl
  | cons x rest ih =>
    obtain ⟨b, v⟩ := x
    by_cases hb : b ≤ a
    · rw [List.dropWhile_cons_of_pos (by simpa using hb), ih]
    · rw [List.dropWhile_cons_of_neg (by simpa using hb)]
      exact Memory.read_eq_unlisted_of_lt (by omega)

/-- A read after a write: the byte written at its address, the old byte everywhere else. -/
theorem Memory.read_write (m : Memory) (a c : Nat) (v : Byte) :
    Memory.read (Memory.write m a v) c = if c = a then v else Memory.read m c := by
  induction m with
  | nil =>
    by_cases hv : v = Config.unlistedByte <;> by_cases hc : c = a <;> simp [Memory.write, Memory.read, hv, hc]
  | cons x rest ih =>
    obtain ⟨b, w⟩ := x
    rcases Nat.lt_trichotomy a b with hab | hab | hab
    · by_cases hv : v = Config.unlistedByte
      · by_cases hc : c = a
        · subst hc
          simp [Memory.write, hab, hv, Memory.read_eq_unlisted_of_lt]
        · simp [Memory.write, hab, hv, hc]
      · rcases Nat.lt_trichotomy c a with hc | hc | hc
        · rw [if_neg (by omega), Memory.read_eq_unlisted_of_lt (by omega)]
          simp [Memory.write, hab, hv, Memory.read_eq_unlisted_of_lt hc]
        · simp [Memory.write, hab, hv, Memory.read, hc]
        · rw [if_neg (by omega)]
          simp only [Memory.write, hab, hv, if_true, if_false]
          rw [Memory.read, if_neg (by omega), if_neg (by omega)]
    · subst hab
      by_cases hv : v = Config.unlistedByte
      · simp only [Memory.write, Nat.lt_irrefl, hv, if_true, if_false]
        by_cases hc : c ≤ a
        · rw [Memory.read_dropWhile_le hc]
          by_cases h : c = a
          · simp [h]
          · rw [if_neg h, Memory.read_eq_unlisted_of_lt (by omega)]
        · rw [Memory.read_dropWhile (by omega), if_neg (by omega), Memory.read, if_neg (by omega), if_neg (by omega)]
      · by_cases h : c = a <;> simp [Memory.write, hv, Memory.read, h]
    · have h1 : ¬ a < b := by omega
      have h2 : a ≠ b := by omega
      simp only [Memory.write, h1, h2, if_false, Memory.read, ih]
      by_cases hcb : c = b
      · simp [hcb, show b ≠ a by omega]
      · by_cases hlt : c < b
        · simp [hcb, hlt, show c ≠ a by omega]
        · simp [hcb, hlt]

theorem Memory.wfFrom_cons {lo a : Nat} {v : Byte} {m : Memory} :
    Memory.wfFrom lo ((a, v) :: m) = true ↔
      lo ≤ a ∧ a < 65536 ∧ v ≠ Config.unlistedByte ∧ Memory.wfFrom (a + 1) m = true := by
  simp [Memory.wfFrom, and_assoc]

theorem Memory.wfFrom_mono {lo lo' : Nat} {m : Memory} (h : lo' ≤ lo) (hm : Memory.wfFrom lo m = true) :
    Memory.wfFrom lo' m = true := by
  cases m with
  | nil => rfl
  | cons x rest =>
    obtain ⟨a, v⟩ := x
    rw [Memory.wfFrom_cons] at hm ⊢
    exact ⟨by omega, hm.2⟩

/-- In a canonical memory the write drops no cell of the tail. -/
theorem Memory.dropWhile_eq_self {a : Nat} {m : Memory} (hm : Memory.wfFrom (a + 1) m = true) :
    (m.dropWhile fun x => decide (x.1 ≤ a)) = m := by
  cases m with
  | nil => rfl
  | cons x rest =>
    obtain ⟨b, v⟩ := x
    rw [Memory.wfFrom_cons] at hm
    exact List.dropWhile_cons_of_neg (by simp; omega)

theorem Memory.wfFrom_write {lo a : Nat} {v : Byte} {m : Memory} (hm : Memory.wfFrom lo m = true) (hlo : lo ≤ a)
    (ha : a < 65536) : Memory.wfFrom lo (Memory.write m a v) = true := by
  induction m generalizing lo with
  | nil =>
    by_cases hv : v = Config.unlistedByte
    · simp [Memory.write, hv, Memory.wfFrom]
    · simp only [Memory.write, hv, if_false]
      exact Memory.wfFrom_cons.2 ⟨hlo, ha, hv, rfl⟩
  | cons x rest ih =>
    obtain ⟨b, w⟩ := x
    obtain ⟨h1, h2, h3, h4⟩ := Memory.wfFrom_cons.1 hm
    rcases Nat.lt_trichotomy a b with hab | hab | hab
    · by_cases hv : v = Config.unlistedByte
      · simpa [Memory.write, hab, hv] using hm
      · simp only [Memory.write, hab, hv, if_true, if_false]
        exact Memory.wfFrom_cons.2 ⟨hlo, ha, hv, Memory.wfFrom_cons.2 ⟨by omega, h2, h3, h4⟩⟩
    · subst hab
      by_cases hv : v = Config.unlistedByte
      · simp only [Memory.write, Nat.lt_irrefl, hv, if_true, if_false, Memory.dropWhile_eq_self h4]
        exact Memory.wfFrom_mono (by omega) h4
      · simp only [Memory.write, Nat.lt_irrefl, hv, if_true, if_false]
        exact Memory.wfFrom_cons.2 ⟨h1, h2, hv, h4⟩
    · simp only [Memory.write, show ¬ a < b by omega, show a ≠ b by omega, if_false]
      exact Memory.wfFrom_cons.2 ⟨h1, h2, h3, ih h4 (by omega)⟩

/-- Every write keeps the canonical form. -/
theorem Memory.wf_write {m : Memory} {a : Nat} {v : Byte} (hm : m.wf = true) (ha : a < 65536) :
    (Memory.write m a v).wf = true :=
  Memory.wfFrom_write hm (Nat.zero_le a) ha

end Sys2Proof.Machine
end

