-- ==== Sys2Proof/Laws/State.lean ====
section
/-! SUPPORT. For each update of the state, what each view of it reads afterwards. With these as simp lemmas no later proof
unfolds an update. -/

namespace Sys2Proof.Machine

variable (s : State)

/-! ## The end of an instruction -/

@[simp] theorem af_advance (n : Word) : (s.advance n).af = s.af := rfl
@[simp] theorem bc_advance (n : Word) : (s.advance n).bc = s.bc := rfl
@[simp] theorem de_advance (n : Word) : (s.advance n).de = s.de := rfl
@[simp] theorem hl_advance (n : Word) : (s.advance n).hl = s.hl := rfl
@[simp] theorem ir_advance (n : Word) : (s.advance n).ir = s.ir := rfl
@[simp] theorem ie_advance (n : Word) : (s.advance n).ie = s.ie := rfl
@[simp] theorem sp_advance (n : Word) : (s.advance n).sp = s.sp := rfl
@[simp] theorem pc_advance (n : Word) : (s.advance n).pc = s.pc + n := rfl
@[simp] theorem mem_advance (n : Word) : (s.advance n).mem = s.mem := rfl
@[simp] theorem get8_advance (n : Word) (x : Half) : (s.advance n).get8 x = s.get8 x := by cases x <;> rfl
@[simp] theorem flag_advance (n : Word) (f : Flag) : (s.advance n).flag f = s.flag f := rfl
@[simp] theorem fLow_advance (n : Word) : (s.advance n).fLow = s.fLow := rfl
@[simp] theorem memRead1_advance (n a : Word) : (s.advance n).memRead1 a = s.memRead1 a := rfl

/-! ## A byte of memory written -/

@[simp] theorem af_memWrite1 (a : Word) (v : Byte) : (s.memWrite1 a v).af = s.af := rfl
@[simp] theorem bc_memWrite1 (a : Word) (v : Byte) : (s.memWrite1 a v).bc = s.bc := rfl
@[simp] theorem de_memWrite1 (a : Word) (v : Byte) : (s.memWrite1 a v).de = s.de := rfl
@[simp] theorem hl_memWrite1 (a : Word) (v : Byte) : (s.memWrite1 a v).hl = s.hl := rfl
@[simp] theorem ir_memWrite1 (a : Word) (v : Byte) : (s.memWrite1 a v).ir = s.ir := rfl
@[simp] theorem ie_memWrite1 (a : Word) (v : Byte) : (s.memWrite1 a v).ie = s.ie := rfl
@[simp] theorem sp_memWrite1 (a : Word) (v : Byte) : (s.memWrite1 a v).sp = s.sp := rfl
@[simp] theorem pc_memWrite1 (a : Word) (v : Byte) : (s.memWrite1 a v).pc = s.pc := rfl
@[simp] theorem mem_memWrite1 (a : Word) (v : Byte) : (s.memWrite1 a v).mem = Memory.write s.mem a.toNat v := rfl
@[simp] theorem get8_memWrite1 (a : Word) (v : Byte) (x : Half) : (s.memWrite1 a v).get8 x = s.get8 x := by
  cases x <;> rfl
@[simp] theorem get16_memWrite1 (a : Word) (v : Byte) (r : Reg16) : (s.memWrite1 a v).get16 r = s.get16 r := by
  cases r <;> rfl
@[simp] theorem flag_memWrite1 (a : Word) (v : Byte) (f : Flag) : (s.memWrite1 a v).flag f = s.flag f := rfl
@[simp] theorem fLow_memWrite1 (a : Word) (v : Byte) : (s.memWrite1 a v).fLow = s.fLow := rfl

/-- A read after a write (20_memory.md R61, R62). -/
@[simp] theorem memRead1_memWrite1 (a c : Word) (v : Byte) :
    (s.memWrite1 a v).memRead1 c = if c = a then v else s.memRead1 c := by
  simp only [State.memRead1, State.memWrite1, Memory.read_write, ← BitVec.toNat_inj]

/-! ## A word of memory written -/

@[simp] theorem af_memWrite2 (a v : Word) : (s.memWrite2 a v).af = s.af := rfl
@[simp] theorem bc_memWrite2 (a v : Word) : (s.memWrite2 a v).bc = s.bc := rfl
@[simp] theorem de_memWrite2 (a v : Word) : (s.memWrite2 a v).de = s.de := rfl
@[simp] theorem hl_memWrite2 (a v : Word) : (s.memWrite2 a v).hl = s.hl := rfl
@[simp] theorem ir_memWrite2 (a v : Word) : (s.memWrite2 a v).ir = s.ir := rfl
@[simp] theorem ie_memWrite2 (a v : Word) : (s.memWrite2 a v).ie = s.ie := rfl
@[simp] theorem sp_memWrite2 (a v : Word) : (s.memWrite2 a v).sp = s.sp := rfl
@[simp] theorem pc_memWrite2 (a v : Word) : (s.memWrite2 a v).pc = s.pc := rfl
@[simp] theorem get8_memWrite2 (a v : Word) (x : Half) : (s.memWrite2 a v).get8 x = s.get8 x := by cases x <;> rfl
@[simp] theorem flag_memWrite2 (a v : Word) (f : Flag) : (s.memWrite2 a v).flag f = s.flag f := rfl
@[simp] theorem fLow_memWrite2 (a v : Word) : (s.memWrite2 a v).fLow = s.fLow := rfl

/-- The two cells of a 16-bit store are different cells (R64). -/
@[simp] theorem word_succ_ne (a : Word) : a + 1 ≠ a := by
  intro h
  have := congrArg BitVec.toNat h
  simp at this
  omega

/-- A read after a 16-bit store (R64). -/
@[simp] theorem memRead1_memWrite2 (a v c : Word) :
    (s.memWrite2 a v).memRead1 c = if c = a + 1 then hiByte v else if c = a then loByte v else s.memRead1 c := by
  simp [State.memWrite2]

/-! ## A halve written -/

@[simp] theorem get8_set8 (x y : Half) (v : Byte) : (s.set8 x v).get8 y = if y = x then v else s.get8 y := by
  cases x <;> cases y <;> simp [State.get8, State.set8]
@[simp] theorem ir_set8 (x : Half) (v : Byte) : (s.set8 x v).ir = s.ir := by cases x <;> rfl
@[simp] theorem ie_set8 (x : Half) (v : Byte) : (s.set8 x v).ie = s.ie := by cases x <;> rfl
@[simp] theorem sp_set8 (x : Half) (v : Byte) : (s.set8 x v).sp = s.sp := by cases x <;> rfl
@[simp] theorem pc_set8 (x : Half) (v : Byte) : (s.set8 x v).pc = s.pc := by cases x <;> rfl
@[simp] theorem mem_set8 (x : Half) (v : Byte) : (s.set8 x v).mem = s.mem := by cases x <;> rfl
@[simp] theorem memRead1_set8 (x : Half) (v : Byte) (a : Word) : (s.set8 x v).memRead1 a = s.memRead1 a := by
  cases x <;> rfl
theorem flag_set8 {x : Half} (h : x ≠ .f) (v : Byte) (f : Flag) : (s.set8 x v).flag f = s.flag f := by
  simp [State.flag, h.symm]
theorem fLow_set8 {x : Half} (h : x ≠ .f) (v : Byte) : (s.set8 x v).fLow = s.fLow := by
  simp [State.fLow, h.symm]

@[simp] theorem half_ne_f (r : R8) : r.half ≠ .f := by cases r <;> decide
@[simp] theorem flag_set8_half (r : R8) (v : Byte) (f : Flag) : (s.set8 r.half v).flag f = s.flag f :=
  flag_set8 s (half_ne_f r) v f
@[simp] theorem fLow_set8_half (r : R8) (v : Byte) : (s.set8 r.half v).fLow = s.fLow := fLow_set8 s (half_ne_f r) v
@[simp] theorem flag_set8_a (v : Byte) (f : Flag) : (s.set8 .a v).flag f = s.flag f := flag_set8 s (by decide) v f
@[simp] theorem fLow_set8_a (v : Byte) : (s.set8 .a v).fLow = s.fLow := fLow_set8 s (by decide) v

/-! ## A flag written (10_state.md R25) -/

@[simp] theorem flag_setFlag (f g : Flag) (b : Bool) : (s.setFlag f b).flag g = if g = f then b else s.flag g := by
  cases f <;> cases g <;> cases b <;> simp [State.setFlag, State.flag, flagMask, flagPos]
@[simp] theorem fLow_setFlag (f : Flag) (b : Bool) : (s.setFlag f b).fLow = s.fLow := by
  apply BitVec.eq_of_getLsbD_eq
  intro i hi
  have : i = 0 ∨ i = 1 ∨ i = 2 ∨ i = 3 := by omega
  rcases this with rfl | rfl | rfl | rfl <;> cases f <;> cases b <;>
    simp [State.setFlag, State.fLow, flagMask, flagPos]
theorem get8_setFlag (f : Flag) (b : Bool) {x : Half} (h : x ≠ .f) : (s.setFlag f b).get8 x = s.get8 x := by
  simp [State.setFlag, h]
@[simp] theorem get8_setFlag_half (f : Flag) (b : Bool) (r : R8) : (s.setFlag f b).get8 r.half = s.get8 r.half :=
  get8_setFlag s f b (half_ne_f r)
@[simp] theorem get8_setFlag_a (f : Flag) (b : Bool) : (s.setFlag f b).get8 .a = s.get8 .a :=
  get8_setFlag s f b (by decide)
@[simp] theorem bc_setFlag (f : Flag) (b : Bool) : (s.setFlag f b).bc = s.bc := rfl
@[simp] theorem de_setFlag (f : Flag) (b : Bool) : (s.setFlag f b).de = s.de := rfl
@[simp] theorem hl_setFlag (f : Flag) (b : Bool) : (s.setFlag f b).hl = s.hl := rfl
@[simp] theorem ir_setFlag (f : Flag) (b : Bool) : (s.setFlag f b).ir = s.ir := rfl
@[simp] theorem ie_setFlag (f : Flag) (b : Bool) : (s.setFlag f b).ie = s.ie := rfl
@[simp] theorem sp_setFlag (f : Flag) (b : Bool) : (s.setFlag f b).sp = s.sp := rfl
@[simp] theorem pc_setFlag (f : Flag) (b : Bool) : (s.setFlag f b).pc = s.pc := rfl
@[simp] theorem mem_setFlag (f : Flag) (b : Bool) : (s.setFlag f b).mem = s.mem := rfl
@[simp] theorem memRead1_setFlag (f : Flag) (b : Bool) (a : Word) : (s.setFlag f b).memRead1 a = s.memRead1 a := rfl

/-! ## A register written (R23) -/

@[simp] theorem get16_set16 (r q : Reg16) (v : Word) : (s.set16 r v).get16 q = if q = r then v else s.get16 q := by
  cases r <;> cases q <;> rfl
@[simp] theorem mem_set16 (r : Reg16) (v : Word) : (s.set16 r v).mem = s.mem := by cases r <;> rfl
@[simp] theorem memRead1_set16 (r : Reg16) (v a : Word) : (s.set16 r v).memRead1 a = s.memRead1 a := by
  cases r <;> rfl

/-- The registers, where they are written as fields. -/
theorem get16_eq : s.get16 .af = s.af ∧ s.get16 .bc = s.bc ∧ s.get16 .de = s.de ∧ s.get16 .hl = s.hl ∧
    s.get16 .ir = s.ir ∧ s.get16 .ie = s.ie ∧ s.get16 .sp = s.sp ∧ s.get16 .pc = s.pc :=
  ⟨rfl, rfl, rfl, rfl, rfl, rfl, rfl, rfl⟩

/-! ## The operand of an `r` or `(HL)` form written -/

theorem readTarget_writeTarget (t : Target8) (v : Byte) :
    (s.writeTarget t v).readTarget t = v := by
  cases t <;> simp [State.readTarget, State.writeTarget]

end Sys2Proof.Machine
end

