-- ==== Sys2Proof/Laws/Frame.lean ====
section
/-! SUPPORT. The frame of each update of the state, and how frames compose. -/

namespace Sys2Proof

open Sys2Proof.Machine

variable {s t u : State}

theorem Frame.refl (s : State) : Frame [] [] [] [] s s :=
  ⟨fun _ _ _ => rfl, fun _ _ => rfl, rfl, rfl, rfl, fun _ => rfl, fun _ _ => rfl⟩

theorem Frame.trans {h h' : List Half} {f f' : List Flag} {r r' : List Reg16} {c c' : List Word}
    (st : Frame h f r c s t) (tu : Frame h' f' r' c' t u) : Frame (h ++ h') (f ++ f') (r ++ r') (c ++ c') s u where
  halves x hx hm := by
    rw [List.mem_append, not_or] at hm
    rw [tu.halves x hx hm.2, st.halves x hx hm.1]
  flags g hm := by
    rw [List.mem_append, not_or] at hm
    rw [tu.flags g hm.2, st.flags g hm.1]
  fLow := tu.fLow.trans st.fLow
  ir := tu.ir.trans st.ir
  ie := tu.ie.trans st.ie
  sp hm := by
    rw [List.mem_append, not_or] at hm
    rw [tu.sp hm.2, st.sp hm.1]
  cells a hm := by
    rw [List.mem_append, not_or] at hm
    rw [tu.cells a hm.2, st.cells a hm.1]

/-- A frame that lists more says less. -/
theorem Frame.mono {h h' : List Half} {f f' : List Flag} {r r' : List Reg16} {c c' : List Word}
    (st : Frame h f r c s t) (hh : h ⊆ h') (hf : f ⊆ f') (hr : r ⊆ r') (hc : c ⊆ c') : Frame h' f' r' c' s t where
  halves x hx hm := st.halves x hx fun hx' => hm (hh hx')
  flags g hm := st.flags g fun hg => hm (hf hg)
  fLow := st.fLow
  ir := st.ir
  ie := st.ie
  sp hm := st.sp fun hs => hm (hr hs)
  cells a hm := st.cells a fun ha => hm (hc ha)

theorem frame_advance (s : State) (n : Word) : Frame [] [] [] [] s (s.advance n) := by
  constructor <;> simp

theorem frame_set8 (s : State) {x : Half} (hx : x ≠ .f) (v : Byte) : Frame [x] [] [] [] s (s.set8 x v) where
  halves y _ hm := by simp_all
  flags f _ := flag_set8 s hx v f
  fLow := fLow_set8 s hx v
  ir := ir_set8 s x v
  ie := ie_set8 s x v
  sp _ := sp_set8 s x v
  cells a _ := memRead1_set8 s x v a

theorem frame_setFlag (s : State) (f : Flag) (b : Bool) : Frame [] [f] [] [] s (s.setFlag f b) where
  halves _ hx _ := get8_setFlag s f b hx
  flags g hm := by simp_all
  fLow := fLow_setFlag s f b
  ir := rfl
  ie := rfl
  sp _ := rfl
  cells _ _ := rfl

theorem frame_memWrite1 (s : State) (a : Word) (v : Byte) : Frame [] [] [] [a] s (s.memWrite1 a v) := by
  constructor <;> simp_all

theorem frame_memWrite2 (s : State) (a v : Word) : Frame [] [] [] [a, a + 1] s (s.memWrite2 a v) := by
  constructor <;> simp_all

/-- Writing BC, DE or HL: its halves, and no independent register. -/
theorem frame_setPair (s : State) (r : Pair) (v : Word) : Frame r.reg.halves [] [] [] s (s.set16 r.reg v) := by
  cases r <;> constructor <;>
    first
      | (intro x _ hm; cases x <;> simp_all [Pair.reg, Reg16.halves, State.set16, State.get8])
      | simp [Pair.reg, State.set16, State.flag, State.fLow, State.get8, State.memRead1]

theorem frame_setSP (s : State) (v : Word) : Frame [] [] [.sp] [] s (s.set16 .sp v) := by
  constructor <;>
    first
      | (intro x _ hm; cases x <;> simp_all [State.set16, State.get8])
      | simp [State.set16, State.flag, State.fLow, State.get8, State.memRead1]

theorem frame_setZNH (s : State) (z n h : Bool) : Frame [] [.z, .n, .h] [] [] s (s.setZNH z n h) :=
  ((frame_setFlag s .z z).trans (frame_setFlag _ .n n)).trans (frame_setFlag _ .h h)

theorem frame_setZNHC (s : State) (z n h c : Bool) : Frame [] allFlags [] [] s (s.setZNHC z n h c) :=
  (frame_setZNH s z n h).trans (frame_setFlag _ .c c)

/-! ## Bytes stored -/

@[simp] theorem byteAfter_nil (s : State) (a : Word) : byteAfter [] s a = s.memRead1 a := rfl

@[simp] theorem byteAfter_cons (s : State) (b : Word) (v : Byte) (w : List (Word × Byte)) (a : Word) :
    byteAfter ((b, v) :: w) s a = if a = b then v else byteAfter w s a := by
  unfold byteAfter
  rw [List.lookup_cons]
  by_cases h : a = b
  · simp [h]
  · rw [if_neg h, show (a == b) = false by simpa using h]

end Sys2Proof
end

