-- ==== Sys2Proof/Laws/Ops.lean ====
section
/-! SUPPORT. What each shared operation can do, said once: it answers a next state, with this result and this frame. A proof
about an instruction cites the lemma of the operation its meaning calls. -/

namespace Sys2Proof

open Sys2Proof.Machine

/-! ## Flag writes -/

@[simp] theorem flag_setZNH (s : State) (z n h : Bool) (f : Flag) :
    (s.setZNH z n h).flag f = match f with | .z => z | .n => n | .h => h | .c => s.flag .c := by
  cases f <;> simp [State.setZNH]

@[simp] theorem flag_setZNHC (s : State) (z n h c : Bool) (f : Flag) :
    (s.setZNHC z n h c).flag f = match f with | .z => z | .n => n | .h => h | .c => c := by
  cases f <;> simp [State.setZNHC]

@[simp] theorem get8_setZNH_half (s : State) (z n h : Bool) (r : R8) : (s.setZNH z n h).get8 r.half = s.get8 r.half := by
  simp [State.setZNH]

@[simp] theorem get8_setZNHC_half (s : State) (z n h c : Bool) (r : R8) :
    (s.setZNHC z n h c).get8 r.half = s.get8 r.half := by
  simp [State.setZNHC]

@[simp] theorem get8_setZNHC_a (s : State) (z n h c : Bool) : (s.setZNHC z n h c).get8 .a = s.get8 .a := by
  simp [State.setZNHC, State.setZNH]

@[simp] theorem hl_setZNH (s : State) (z n h : Bool) : (s.setZNH z n h).hl = s.hl := rfl
@[simp] theorem pc_setZNH (s : State) (z n h : Bool) : (s.setZNH z n h).pc = s.pc := rfl
@[simp] theorem mem_setZNH (s : State) (z n h : Bool) : (s.setZNH z n h).mem = s.mem := rfl
@[simp] theorem memRead1_setZNH (s : State) (z n h : Bool) (a : Word) : (s.setZNH z n h).memRead1 a = s.memRead1 a := rfl
@[simp] theorem hl_setZNHC (s : State) (z n h c : Bool) : (s.setZNHC z n h c).hl = s.hl := rfl
@[simp] theorem sp_setZNHC (s : State) (z n h c : Bool) : (s.setZNHC z n h c).sp = s.sp := rfl
@[simp] theorem pc_setZNHC (s : State) (z n h c : Bool) : (s.setZNHC z n h c).pc = s.pc := rfl
@[simp] theorem mem_setZNHC (s : State) (z n h c : Bool) : (s.setZNHC z n h c).mem = s.mem := rfl
@[simp] theorem memRead1_setZNHC (s : State) (z n h c : Bool) (a : Word) :
    (s.setZNHC z n h c).memRead1 a = s.memRead1 a := rfl

/-- An effect whose list of changes is larger, or whose postcondition is weaker, holds too. -/
theorem Effect.mono {o : Host.Outcome State Fault Refusal} {s : State} {n : Word} {h h' : List Half} {f f' : List Flag}
    {r r' : List Reg16} {c c' : List Word} {p p' : State → Prop} (e : Effect o s n h f r c p)
    (hh : h ⊆ h') (hf : f ⊆ f') (hr : r ⊆ r') (hc : c ⊆ c') (hp : ∀ t, p t → p' t) : Effect o s n h' f' r' c' p' := by
  obtain ⟨t, ht, hpc, fr, pt⟩ := e
  exact ⟨t, ht, hpc, fr.mono hh hf hr hc, hp t pt⟩

/-- An effect with a weaker postcondition. -/
theorem Effect.weaken {o : Host.Outcome State Fault Refusal} {s : State} {n : Word} {h : List Half} {f : List Flag}
    {r : List Reg16} {c : List Word} {p p' : State → Prop} (e : Effect o s n h f r c p) (hp : ∀ t, p t → p' t) :
    Effect o s n h f r c p' :=
  e.mono (fun _ h => h) (fun _ h => h) (fun _ h => h) (fun _ h => h) hp

/-! ## Loads and stores -/

theorem loadHalf_effect (dst : R8) (v : Byte) (n : Word) (s : State) :
    Effect (loadHalf dst v n s) s n [dst.half] [] [] [] fun t => t.get8 dst.half = v :=
  ⟨_, rfl, by simp, (frame_set8 s (half_ne_f dst) v).trans (frame_advance _ n), by simp⟩

theorem storeByte_effect (a : Word) (v : Byte) (n : Word) (s : State) :
    Effect (storeByte a v n s) s n [] [] [] [a] fun t => t.memRead1 a = v :=
  ⟨_, rfl, by simp, (frame_memWrite1 s a v).trans (frame_advance _ n), by simp⟩

theorem loadAThenStepHL_effect (d : Word) (s : State) :
    Effect (loadAThenStepHL d s) s 1 [.a, .h, .l] [] [] [] fun t => t.get8 .a = s.memRead1 s.hl ∧ t.hl = s.hl + d :=
  ⟨_, rfl, by simp [State.set16],
    ((frame_set8 s (x := .a) (by decide) _).trans (frame_setPair _ .hl _)).trans (frame_advance _ 1),
    by simp [State.set16, State.get8, State.set8], rfl⟩

theorem storeAThenStepHL_effect (d : Word) (s : State) :
    Effect (storeAThenStepHL d s) s 1 [.h, .l] [] [] [s.hl] fun t => t.memRead1 s.hl = s.get8 .a ∧ t.hl = s.hl + d :=
  ⟨_, rfl, by simp [State.set16],
    ((frame_memWrite1 s s.hl _).trans (frame_setPair _ .hl _)).trans (frame_advance _ 1),
    by simp, rfl⟩

theorem ldHLSPpe_effect (e : Byte) (s : State) :
    Effect (offsetSPInto .hl e s) s 2 [.h, .l] allFlags [] [] fun t =>
      t.hl = s.sp + sext16 e ∧ t.flag .z = false ∧ t.flag .n = false ∧
        t.flag .h = (add8 (loByte s.sp) e).half ∧ t.flag .c = (add8 (loByte s.sp) e).carry :=
  ⟨_, rfl, by simp [State.set16], ((frame_setPair s .hl _).trans (frame_setZNHC _ _ _ _ _)).trans (frame_advance _ 2),
    rfl, by simp⟩

theorem addSPpe_effect (e : Byte) (s : State) :
    Effect (offsetSPInto .sp e s) s 2 [] allFlags [.sp] [] fun t =>
      t.sp = s.sp + sext16 e ∧ t.flag .z = false ∧ t.flag .n = false ∧
        t.flag .h = (add8 (loByte s.sp) e).half ∧ t.flag .c = (add8 (loByte s.sp) e).carry :=
  ⟨_, rfl, by simp [State.set16], ((frame_setSP s _).trans (frame_setZNHC _ _ _ _ _)).trans (frame_advance _ 2),
    rfl, by simp⟩

/-! ## The stack -/

theorem popInto_effect (r : Pair) (v : Word) (s : State) :
    Effect (popInto r.reg v s) s 1 r.reg.halves [] [.sp] [] fun t => t.get16 r.reg = v ∧ t.sp = s.sp + 2 :=
  ⟨_, rfl, by cases r <;> rfl,
    ((frame_setPair s r v).trans (frame_setSP _ _)).trans (frame_advance _ 1) |>.mono
      (by simp) (by simp) (by simp) (by simp), by cases r <;> rfl, by cases r <;> rfl⟩

/-! ## Arithmetic, bitwise and bit test -/

theorem accumulate_effect (r : Alu 8) (n : Bool) (len : Word) (s : State) :
    Effect (accumulate r n len s) s len [.a] allFlags [] [] fun t =>
      t.get8 .a = r.result ∧ t.flag .z = (r.result == 0) ∧ t.flag .n = n ∧ t.flag .h = r.half ∧ t.flag .c = r.carry :=
  ⟨_, rfl, by simp, ((frame_set8 s (x := .a) (by decide) _).trans (frame_setZNHC _ _ _ _ _)).trans (frame_advance _ len),
    by simp⟩

theorem compareWithA_effect (v : Byte) (len : Word) (s : State) :
    Effect (compareWithA v len s) s len [] allFlags [] [] fun t =>
      t.flag .z = ((sub8 (s.get8 .a) v).result == 0) ∧ t.flag .n = true ∧
        t.flag .h = (sub8 (s.get8 .a) v).half ∧ t.flag .c = (sub8 (s.get8 .a) v).carry :=
  ⟨_, rfl, by simp, (frame_setZNHC s _ _ _ _).trans (frame_advance _ len), by simp⟩

/-- The halves and cells that writing the operand of an `r` or `(HL)` form may change. -/
def targetHalves (t : Target8) : List Half :=
  match t with
  | .reg r => [r.half]
  | .atHL => []

/-- See `targetHalves`. -/
def targetCells (t : Target8) (s : State) : List Word :=
  match t with
  | .reg _ => []
  | .atHL => [s.hl]

/-- The operand in `t`, its address taken from `s`. -/
def targetIn (g : Target8) (s t : State) : Byte :=
  match g with
  | .reg r => t.get8 r.half
  | .atHL => t.memRead1 s.hl

theorem frame_writeTarget (s : State) (t : Target8) (v : Byte) :
    Frame (targetHalves t) [] [] (targetCells t s) s (s.writeTarget t v) := by
  cases t with
  | reg r => exact frame_set8 s (half_ne_f r) v
  | atHL => exact frame_memWrite1 s s.hl v

@[simp] theorem pc_writeTarget (s : State) (t : Target8) (v : Byte) : (s.writeTarget t v).pc = s.pc := by
  cases t <;> simp [State.writeTarget]

@[simp] theorem flag_writeTarget (s : State) (t : Target8) (v : Byte) (f : Flag) :
    (s.writeTarget t v).flag f = s.flag f := by
  cases t <;> simp [State.writeTarget]

theorem stepTarget_effect (g : Target8) (r : Alu 8) (n : Bool) (s : State) :
    Effect (stepTarget g r n s) s 1 (targetHalves g) [.z, .n, .h] [] (targetCells g s) fun t =>
      targetIn g s t = r.result ∧ t.flag .z = (r.result == 0) ∧ t.flag .n = n ∧ t.flag .h = r.half :=
  ⟨_, rfl, by simp, ((frame_writeTarget s g _).trans (frame_setZNH _ _ _ _)).trans (frame_advance _ 1) |>.mono
    (by simp) (by simp) (by simp) (by simp), by cases g <;> simp [targetIn, State.writeTarget], by simp⟩

theorem bitwiseIntoA_effect (res : Byte) (h : Bool) (len : Word) (s : State) :
    Effect (bitwiseIntoA res h len s) s len [.a] allFlags [] [] fun t =>
      t.get8 .a = res ∧ t.flag .z = (res == 0) ∧ t.flag .n = false ∧ t.flag .h = h ∧ t.flag .c = false :=
  ⟨_, rfl, by simp, ((frame_set8 s (x := .a) (by decide) _).trans (frame_setZNHC _ _ _ _ _)).trans (frame_advance _ len),
    by simp⟩

theorem testBit_effect (b : BitVec 3) (v : Byte) (s : State) :
    Effect (testBit b v s) s 2 [] [.z, .n, .h] [] [] fun t =>
      t.flag .z = !v.getLsbD b.toNat ∧ t.flag .n = false ∧ t.flag .h = true :=
  ⟨_, rfl, by simp, (frame_setZNH s _ _ _).trans (frame_advance _ 2), by simp⟩

/-! ## Rotates, shifts and swap -/

/-- The flags that a CB-prefixed member writes under a profile (46_rotate_shift.md R240). -/
def rotFlagsWritten (p : FlagProfile) (op : RotOp) : List Flag :=
  match p, op with
  | _, .swap => allFlags
  | .doc, _ => [.c]
  | .silicon, _ => allFlags

theorem frame_rotFlags (s : State) (p : FlagProfile) (op : RotOp) (res : Byte) (c : Bool) :
    Frame [] (rotFlagsWritten p op) [] [] s (s.rotFlags p op res c) := by
  cases p <;> cases op <;> first | exact frame_setZNHC s _ _ _ _ | exact frame_setFlag s .c c

theorem flag_rotFlags_doc {op : RotOp} (ho : op ≠ .swap) (s : State) (res : Byte) (c : Bool) (f : Flag) :
    (s.rotFlags .doc op res c).flag f = if f = .c then c else s.flag f := by
  cases op <;> first | exact absurd rfl ho | simp [State.rotFlags]

theorem flag_rotFlags_silicon {op : RotOp} (ho : op ≠ .swap) (s : State) (res : Byte) (c : Bool) (f : Flag) :
    (s.rotFlags .silicon op res c).flag f = match f with | .z => res == 0 | .n => false | .h => false | .c => c := by
  cases op <;> first | exact absurd rfl ho | simp [State.rotFlags]

theorem flag_rotFlags_swap (s : State) (p : FlagProfile) (res : Byte) (c : Bool) (f : Flag) :
    (s.rotFlags p .swap res c).flag f = match f with | .z => res == 0 | .n => false | .h => false | .c => false := by
  cases p <;> simp [State.rotFlags]

@[simp] theorem targetIn_rotFlags (g : Target8) (s t : State) (p : FlagProfile) (op : RotOp) (res : Byte) (c : Bool) :
    targetIn g s (t.rotFlags p op res c) = targetIn g s t := by
  cases g <;> cases p <;> cases op <;> simp [State.rotFlags, targetIn]

@[simp] theorem pc_rotFlags (s : State) (p : FlagProfile) (op : RotOp) (res : Byte) (c : Bool) :
    (s.rotFlags p op res c).pc = s.pc := by
  cases p <;> cases op <;> rfl

/-- A CB-prefixed member: the operand, the flags it lists, nothing else; what the flags are, the lemmas on `rotFlags` say. -/
theorem rotateUnder_effect (p : FlagProfile) (op : RotOp) (g : Target8) (s : State) :
    Effect (rotateUnder p op g s) s 2 (targetHalves g) (rotFlagsWritten p op) [] (targetCells g s) fun t =>
      targetIn g s t = rotResult op (s.readTarget g) (s.flag .c) ∧
        ∀ f, t.flag f = ((s.writeTarget g (rotResult op (s.readTarget g) (s.flag .c))).rotFlags p op
          (rotResult op (s.readTarget g) (s.flag .c)) (rotCarry op (s.readTarget g))).flag f :=
  ⟨_, rfl, by simp, ((frame_writeTarget s g _).trans (frame_rotFlags _ p op _ _)).trans (frame_advance _ 2) |>.mono
    (by simp) (by simp) (by simp) (by simp),
    (targetIn_rotFlags g s _ p op _ _).trans (by cases g <;> simp [targetIn, State.writeTarget]), fun _ => rfl⟩

/-- The flags that an accumulator form writes under a profile. -/
def rotAccFlagsWritten (p : FlagProfile) : List Flag :=
  match p with
  | .doc => [.c]
  | .silicon => allFlags

theorem rotateAccUnder_effect (p : FlagProfile) (op : RotOp) (s : State) :
    Effect (rotateAccUnder p op s) s 1 [.a] (rotAccFlagsWritten p) [] [] fun t =>
      t.get8 .a = rotResult op (s.get8 .a) (s.flag .c) ∧ t.flag .c = rotCarry op (s.get8 .a) ∧
        (p = .silicon → t.flag .z = false ∧ t.flag .n = false ∧ t.flag .h = false) := by
  cases p
  · exact ⟨_, rfl, by simp [State.rotAccFlags],
      ((frame_set8 s (x := .a) (by decide) _).trans (frame_setFlag _ .c _)).trans (frame_advance _ 1),
      by simp [State.rotAccFlags]⟩
  · exact ⟨_, rfl, by simp [State.rotAccFlags],
      ((frame_set8 s (x := .a) (by decide) _).trans (frame_setZNHC _ _ _ _ _)).trans (frame_advance _ 1),
      by simp [State.rotAccFlags]⟩

/-! ## ADD HL,rr -/

theorem addHLrrUnder_effect (p : FlagProfile) (rr : Rp) (s : State) :
    Effect (addHLrrUnder p rr s) s 1 [.h, .l] (match p with | .doc => allFlags | .silicon => [.n, .h, .c]) [] [] fun t =>
      t.hl = (add16 s.hl (s.get16 rr.reg)).result ∧ t.flag .n = false ∧
        t.flag .h = (add16 s.hl (s.get16 rr.reg)).half ∧ t.flag .c = (add16 s.hl (s.get16 rr.reg)).carry ∧
        (p = .doc → t.flag .z = ((add16 s.hl (s.get16 rr.reg)).result == 0)) := by
  cases p
  · exact ⟨_, rfl, rfl,
      (((((frame_setPair s .hl _).trans (frame_setFlag _ .n _)).trans (frame_setFlag _ .h _)).trans
        (frame_setFlag _ .c _)).trans (frame_setFlag _ .z _)).trans (frame_advance _ 1) |>.mono
        (by simp [Pair.reg, Reg16.halves]) (by simp [allFlags]) (by simp) (by simp),
      rfl, by simp [State.addHLFlags]⟩
  · exact ⟨_, rfl, rfl,
      ((((frame_setPair s .hl _).trans (frame_setFlag _ .n _)).trans (frame_setFlag _ .h _)).trans
        (frame_setFlag _ .c _)).trans (frame_advance _ 1) |>.mono
        (by simp [Pair.reg, Reg16.halves]) (by simp) (by simp) (by simp),
      rfl, by simp [State.addHLFlags]⟩

end Sys2Proof
end

