-- ==== Sys2Proof/Laws/PerInstr.lean ====
section
/-! SUPPORT. The statements made once per instruction. Family `EncodedLength`: an instruction has 1, 2 or 3 bytes and byte 0
alone says how many (30_encoding.md R90, R102). -/

namespace Sys2Proof.Laws.EncodedLength

/-- The length of the encoding is the one its byte 0 gives, and is 1, 2 or 3. -/
def Statement (i : Instr) : Prop :=
  (encode i).length = lengthOf (opcodeByte i) ∧ 1 ≤ (encode i).length ∧ (encode i).length ≤ 3

variable {i : Instr} {b0 b1 b2 : Byte}

theorem one (h : encode i = [b0]) (hl : lengthOf b0 = 1) : Statement i := by
  simp [Statement, opcodeByte, h, hl]

theorem two (h : encode i = [b0, b1]) (hl : lengthOf b0 = 2) : Statement i := by
  simp [Statement, opcodeByte, h, hl]

theorem three (h : encode i = [b0, b1, b2]) (hl : lengthOf b0 = 3) : Statement i := by
  simp [Statement, opcodeByte, h, hl]

theorem nop : Statement .nop := one rfl (by decide)

theorem rlca : Statement .rlca := one rfl (by decide)

theorem ldnnSP (nn : Word) : Statement (.ldnnSP nn) := three rfl (by decide)

theorem rrca : Statement .rrca := one rfl (by decide)

theorem stop : Statement .stop := one rfl (by decide)

theorem rla : Statement .rla := one rfl (by decide)

theorem jre (e : Byte) : Statement (.jre e) := two rfl (by decide)

theorem rra : Statement .rra := one rfl (by decide)

theorem ldBCa : Statement .ldBCa := one rfl (by decide)

theorem ldDEa : Statement .ldDEa := one rfl (by decide)

theorem ldaBC : Statement .ldaBC := one rfl (by decide)

theorem ldaDE : Statement .ldaDE := one rfl (by decide)

theorem ldHLap : Statement .ldHLap := one rfl (by decide)

theorem ldHLam : Statement .ldHLam := one rfl (by decide)

theorem ldaHLp : Statement .ldaHLp := one rfl (by decide)

theorem ldaHLm : Statement .ldaHLm := one rfl (by decide)

theorem daa : Statement .daa := one rfl (by decide)

theorem cpl : Statement .cpl := one rfl (by decide)

theorem scf : Statement .scf := one rfl (by decide)

theorem ccf : Statement .ccf := one rfl (by decide)

theorem incHL : Statement .incHL := one rfl (by decide)

theorem decHL : Statement .decHL := one rfl (by decide)

theorem ldHLn (n : Byte) : Statement (.ldHLn n) := two rfl (by decide)

theorem halt : Statement .halt := one rfl (by decide)

theorem addHL : Statement .addHL := one rfl (by decide)

theorem adcHL : Statement .adcHL := one rfl (by decide)

theorem subHL : Statement .subHL := one rfl (by decide)

theorem sbcHL : Statement .sbcHL := one rfl (by decide)

theorem andHL : Statement .andHL := one rfl (by decide)

theorem xorHL : Statement .xorHL := one rfl (by decide)

theorem orHL : Statement .orHL := one rfl (by decide)

theorem cpHL : Statement .cpHL := one rfl (by decide)

theorem addn (n : Byte) : Statement (.addn n) := two rfl (by decide)

theorem adcn (n : Byte) : Statement (.adcn n) := two rfl (by decide)

theorem subn (n : Byte) : Statement (.subn n) := two rfl (by decide)

theorem sbcn (n : Byte) : Statement (.sbcn n) := two rfl (by decide)

theorem andn (n : Byte) : Statement (.andn n) := two rfl (by decide)

theorem xorn (n : Byte) : Statement (.xorn n) := two rfl (by decide)

theorem orn (n : Byte) : Statement (.orn n) := two rfl (by decide)

theorem cpn (n : Byte) : Statement (.cpn n) := two rfl (by decide)

theorem jpnn (nn : Word) : Statement (.jpnn nn) := three rfl (by decide)

theorem ret : Statement .ret := one rfl (by decide)

theorem reti : Statement .reti := one rfl (by decide)

theorem callnn (nn : Word) : Statement (.callnn nn) := three rfl (by decide)

theorem jpHL : Statement .jpHL := one rfl (by decide)

theorem ldhnA (n : Byte) : Statement (.ldhnA n) := two rfl (by decide)

theorem ldhAn (n : Byte) : Statement (.ldhAn n) := two rfl (by decide)

theorem ldhCa : Statement .ldhCa := one rfl (by decide)

theorem ldhaC : Statement .ldhaC := one rfl (by decide)

theorem addSPpe (e : Byte) : Statement (.addSPpe e) := two rfl (by decide)

theorem ldHLSPpe (e : Byte) : Statement (.ldHLSPpe e) := two rfl (by decide)

theorem ldSPHL : Statement .ldSPHL := one rfl (by decide)

theorem ldnnA (nn : Word) : Statement (.ldnnA nn) := three rfl (by decide)

theorem ldAnn (nn : Word) : Statement (.ldAnn nn) := three rfl (by decide)

theorem di : Statement .di := one rfl (by decide)

theorem ei : Statement .ei := one rfl (by decide)

theorem popAF : Statement .popAF := one rfl (by decide)

theorem illegalD3 : Statement .illegalD3 := one rfl (by decide)

theorem illegalDB : Statement .illegalDB := one rfl (by decide)

theorem illegalDD : Statement .illegalDD := one rfl (by decide)

theorem illegalE3 : Statement .illegalE3 := one rfl (by decide)

theorem illegalE4 : Statement .illegalE4 := one rfl (by decide)

theorem illegalEB : Statement .illegalEB := one rfl (by decide)

theorem illegalEC : Statement .illegalEC := one rfl (by decide)

theorem illegalED : Statement .illegalED := one rfl (by decide)

theorem illegalF4 : Statement .illegalF4 := one rfl (by decide)

theorem illegalFC : Statement .illegalFC := one rfl (by decide)

theorem illegalFD : Statement .illegalFD := one rfl (by decide)

theorem prefixCB (op2 : Byte) : Statement (.prefixCB op2) := two rfl (by decide)

theorem jrcce (cc : BitVec 2) (e : Byte) : Statement (.jrcce cc e) := two rfl (by revert cc; decide)

theorem ldrrnn (rr : Rp) (nn : Word) : Statement (.ldrrnn rr nn) := by cases rr <;> exact three rfl (by decide)

theorem incrr (rr : Rp) : Statement (.incrr rr) := by cases rr <;> exact one rfl (by decide)

theorem decrr (rr : Rp) : Statement (.decrr rr) := by cases rr <;> exact one rfl (by decide)

theorem addHLrr (rr : Rp) : Statement (.addHLrr rr) := by cases rr <;> exact one rfl (by decide)

theorem incr (r : R8) : Statement (.incr r) := by cases r <;> exact one rfl (by decide)

theorem decr (r : R8) : Statement (.decr r) := by cases r <;> exact one rfl (by decide)

theorem ldrn (r : R8) (n : Byte) : Statement (.ldrn r n) := by cases r <;> exact two rfl (by decide)

theorem ldrHL (r : R8) : Statement (.ldrHL r) := by cases r <;> exact one rfl (by decide)

theorem ldHLr (r : R8) : Statement (.ldHLr r) := by cases r <;> exact one rfl (by decide)

theorem ldrr (dst : R8) (src : R8) : Statement (.ldrr dst src) :=
  by cases dst <;> cases src <;> exact one rfl (by decide)

theorem addr (r : R8) : Statement (.addr r) := by cases r <;> exact one rfl (by decide)

theorem adcr (r : R8) : Statement (.adcr r) := by cases r <;> exact one rfl (by decide)

theorem subr (r : R8) : Statement (.subr r) := by cases r <;> exact one rfl (by decide)

theorem sbcr (r : R8) : Statement (.sbcr r) := by cases r <;> exact one rfl (by decide)

theorem andr (r : R8) : Statement (.andr r) := by cases r <;> exact one rfl (by decide)

theorem xorr (r : R8) : Statement (.xorr r) := by cases r <;> exact one rfl (by decide)

theorem orr (r : R8) : Statement (.orr r) := by cases r <;> exact one rfl (by decide)

theorem cpr (r : R8) : Statement (.cpr r) := by cases r <;> exact one rfl (by decide)

theorem retcc (cc : BitVec 2) : Statement (.retcc cc) := one rfl (by revert cc; decide)

theorem jpccnn (cc : BitVec 2) (nn : Word) : Statement (.jpccnn cc nn) := three rfl (by revert cc; decide)

theorem callccnn (cc : BitVec 2) (nn : Word) : Statement (.callccnn cc nn) := three rfl (by revert cc; decide)

theorem rstt (t : BitVec 3) : Statement (.rstt t) := one rfl (by revert t; decide)

theorem poprr (rr : Pair) : Statement (.poprr rr) := by cases rr <;> exact one rfl (by decide)

theorem pushrr (rr : Rp2) : Statement (.pushrr rr) := by cases rr <;> exact one rfl (by decide)

theorem rlcHL : Statement .rlcHL := two rfl (by decide)

theorem rrcHL : Statement .rrcHL := two rfl (by decide)

theorem rlHL : Statement .rlHL := two rfl (by decide)

theorem rrHL : Statement .rrHL := two rfl (by decide)

theorem slaHL : Statement .slaHL := two rfl (by decide)

theorem sraHL : Statement .sraHL := two rfl (by decide)

theorem swapHL : Statement .swapHL := two rfl (by decide)

theorem srlHL : Statement .srlHL := two rfl (by decide)

theorem bitbHL (b : BitVec 3) : Statement (.bitbHL b) := two rfl (by decide)

theorem rlcr (r : R8) : Statement (.rlcr r) := two rfl (by decide)

theorem rrcr (r : R8) : Statement (.rrcr r) := two rfl (by decide)

theorem rlr (r : R8) : Statement (.rlr r) := two rfl (by decide)

theorem rrr (r : R8) : Statement (.rrr r) := two rfl (by decide)

theorem slar (r : R8) : Statement (.slar r) := two rfl (by decide)

theorem srar (r : R8) : Statement (.srar r) := two rfl (by decide)

theorem swapr (r : R8) : Statement (.swapr r) := two rfl (by decide)

theorem srlr (r : R8) : Statement (.srlr r) := two rfl (by decide)

theorem bitbr (b : BitVec 3) (r : R8) : Statement (.bitbr b r) := two rfl (by decide)

theorem resbr (b : BitVec 3) (r : BitVec 3) : Statement (.resbr b r) := two rfl (by decide)

theorem setbr (b : BitVec 3) (r : BitVec 3) : Statement (.setbr b r) := two rfl (by decide)

end Sys2Proof.Laws.EncodedLength
end

