-- ==== Sys2Proof/Tests/Slice0.lean ====
section
/-! SUPPORT. The smoke test of well-formedness, decode tests with words written from the spec's encodings, one or two tests of
each instruction with results from the spec's examples, and a witness for the hypotheses of each statement that has some. -/

namespace Sys2Proof.Tests

open Sys2Proof.Machine

/-- All zero but PC = 0x0100, the `pc0` of the examples. -/
def start : State := { State.reset with pc := 0x0100 }

/-- The outcome is a next state with this property. -/
def gives (o : Host.Outcome State Fault Refusal) (p : State → Bool) : Bool :=
  match o with
  | .next t => p t
  | .fault _ => false
  | .refused _ => false

/-! ## Well-formedness -/

/-- The one ill-formed term: the prefix by itself (R101). -/
theorem test_wf_refuses_prefix : (Instr.prefixCB 0x36).wf = false := by decide

theorem test_wf_accepts_what_it_selects : (decodeCB 0x36).wf = true := by decide

theorem test_status_counts :
    [Instr.swapHL, .halt, .illegalDD, .prefixCB 0].map Instr.status = [.core, .notInCore, .illegal, .prefixRow] := by decide

/-! ## Decoding -/

theorem test_decode_truncated : decode [0x31, 0xFE] = .error (.truncated 0x31) := by decide

theorem test_decode_no_bytes : decode [] = .error .noBytes := by decide

/-- A two-byte row as the host numbers it: the second byte is bits 15 to 8. -/
theorem test_table_word : decodeTableWord 16 0x5A36 = some (.ldHLn 0x5A) ∧ decodeTableWord 8 0x36 = some (.ldHLn 0) := by
  decide

theorem test_table_word_prefix : decodeTableWord 16 0x7CCB = some (.bitbr 7 .h) := by decide

/-! Every constructor but the prefix row, by a word written from the pattern of its row in spec/opcode_table.json
(30_encoding.md R97, R98): the fixed bits, then each field's bits, most significant first. -/

theorem test_decode_nop : decode [0b00000000] = .ok (.nop, []) := by decide
theorem test_decode_rlca : decode [0b00000111] = .ok (.rlca, []) := by decide
theorem test_decode_ldnnSP : decode [0b00001000, 0x34, 0x12] = .ok (.ldnnSP 0x1234, []) := by decide
theorem test_decode_rrca : decode [0b00001111] = .ok (.rrca, []) := by decide
theorem test_decode_stop : decode [0b00010000] = .ok (.stop, []) := by decide
theorem test_decode_rla : decode [0b00010111] = .ok (.rla, []) := by decide
theorem test_decode_jre : decode [0b00011000, 0x80] = .ok (.jre 0x80, []) := by decide
theorem test_decode_rra : decode [0b00011111] = .ok (.rra, []) := by decide
theorem test_decode_ldBCa : decode [0b00000010] = .ok (.ldBCa, []) := by decide
theorem test_decode_ldDEa : decode [0b00010010] = .ok (.ldDEa, []) := by decide
theorem test_decode_ldaBC : decode [0b00001010] = .ok (.ldaBC, []) := by decide
theorem test_decode_ldaDE : decode [0b00011010] = .ok (.ldaDE, []) := by decide
theorem test_decode_ldHLap : decode [0b00100010] = .ok (.ldHLap, []) := by decide
theorem test_decode_ldHLam : decode [0b00110010] = .ok (.ldHLam, []) := by decide
theorem test_decode_ldaHLp : decode [0b00101010] = .ok (.ldaHLp, []) := by decide
theorem test_decode_ldaHLm : decode [0b00111010] = .ok (.ldaHLm, []) := by decide
theorem test_decode_daa : decode [0b00100111] = .ok (.daa, []) := by decide
theorem test_decode_cpl : decode [0b00101111] = .ok (.cpl, []) := by decide
theorem test_decode_scf : decode [0b00110111] = .ok (.scf, []) := by decide
theorem test_decode_ccf : decode [0b00111111] = .ok (.ccf, []) := by decide
theorem test_decode_incHL : decode [0b00110100] = .ok (.incHL, []) := by decide
theorem test_decode_decHL : decode [0b00110101] = .ok (.decHL, []) := by decide
theorem test_decode_ldHLn : decode [0b00110110, 0x80] = .ok (.ldHLn 0x80, []) := by decide
theorem test_decode_halt : decode [0b01110110] = .ok (.halt, []) := by decide
theorem test_decode_addHL : decode [0b10000110] = .ok (.addHL, []) := by decide
theorem test_decode_adcHL : decode [0b10001110] = .ok (.adcHL, []) := by decide
theorem test_decode_subHL : decode [0b10010110] = .ok (.subHL, []) := by decide
theorem test_decode_sbcHL : decode [0b10011110] = .ok (.sbcHL, []) := by decide
theorem test_decode_andHL : decode [0b10100110] = .ok (.andHL, []) := by decide
theorem test_decode_xorHL : decode [0b10101110] = .ok (.xorHL, []) := by decide
theorem test_decode_orHL : decode [0b10110110] = .ok (.orHL, []) := by decide
theorem test_decode_cpHL : decode [0b10111110] = .ok (.cpHL, []) := by decide
theorem test_decode_addn : decode [0b11000110, 0x80] = .ok (.addn 0x80, []) := by decide
theorem test_decode_adcn : decode [0b11001110, 0x80] = .ok (.adcn 0x80, []) := by decide
theorem test_decode_subn : decode [0b11010110, 0x80] = .ok (.subn 0x80, []) := by decide
theorem test_decode_sbcn : decode [0b11011110, 0x80] = .ok (.sbcn 0x80, []) := by decide
theorem test_decode_andn : decode [0b11100110, 0x80] = .ok (.andn 0x80, []) := by decide
theorem test_decode_xorn : decode [0b11101110, 0x80] = .ok (.xorn 0x80, []) := by decide
theorem test_decode_orn : decode [0b11110110, 0x80] = .ok (.orn 0x80, []) := by decide
theorem test_decode_cpn : decode [0b11111110, 0x80] = .ok (.cpn 0x80, []) := by decide
theorem test_decode_jpnn : decode [0b11000011, 0x34, 0x12] = .ok (.jpnn 0x1234, []) := by decide
theorem test_decode_ret : decode [0b11001001] = .ok (.ret, []) := by decide
theorem test_decode_reti : decode [0b11011001] = .ok (.reti, []) := by decide
theorem test_decode_callnn : decode [0b11001101, 0x34, 0x12] = .ok (.callnn 0x1234, []) := by decide
theorem test_decode_jpHL : decode [0b11101001] = .ok (.jpHL, []) := by decide
theorem test_decode_ldhnA : decode [0b11100000, 0x80] = .ok (.ldhnA 0x80, []) := by decide
theorem test_decode_ldhAn : decode [0b11110000, 0x80] = .ok (.ldhAn 0x80, []) := by decide
theorem test_decode_ldhCa : decode [0b11100010] = .ok (.ldhCa, []) := by decide
theorem test_decode_ldhaC : decode [0b11110010] = .ok (.ldhaC, []) := by decide
theorem test_decode_addSPpe : decode [0b11101000, 0x80] = .ok (.addSPpe 0x80, []) := by decide
theorem test_decode_ldHLSPpe : decode [0b11111000, 0x80] = .ok (.ldHLSPpe 0x80, []) := by decide
theorem test_decode_ldSPHL : decode [0b11111001] = .ok (.ldSPHL, []) := by decide
theorem test_decode_ldnnA : decode [0b11101010, 0x34, 0x12] = .ok (.ldnnA 0x1234, []) := by decide
theorem test_decode_ldAnn : decode [0b11111010, 0x34, 0x12] = .ok (.ldAnn 0x1234, []) := by decide
theorem test_decode_di : decode [0b11110011] = .ok (.di, []) := by decide
theorem test_decode_ei : decode [0b11111011] = .ok (.ei, []) := by decide
theorem test_decode_popAF : decode [0b11110001] = .ok (.popAF, []) := by decide
theorem test_decode_illegalD3 : decode [0b11010011] = .ok (.illegalD3, []) := by decide
theorem test_decode_illegalDB : decode [0b11011011] = .ok (.illegalDB, []) := by decide
theorem test_decode_illegalDD : decode [0b11011101] = .ok (.illegalDD, []) := by decide
theorem test_decode_illegalE3 : decode [0b11100011] = .ok (.illegalE3, []) := by decide
theorem test_decode_illegalE4 : decode [0b11100100] = .ok (.illegalE4, []) := by decide
theorem test_decode_illegalEB : decode [0b11101011] = .ok (.illegalEB, []) := by decide
theorem test_decode_illegalEC : decode [0b11101100] = .ok (.illegalEC, []) := by decide
theorem test_decode_illegalED : decode [0b11101101] = .ok (.illegalED, []) := by decide
theorem test_decode_illegalF4 : decode [0b11110100] = .ok (.illegalF4, []) := by decide
theorem test_decode_illegalFC : decode [0b11111100] = .ok (.illegalFC, []) := by decide
theorem test_decode_illegalFD : decode [0b11111101] = .ok (.illegalFD, []) := by decide
theorem test_decode_jrcce : decode [0b001_01_000, 0x81] = .ok (.jrcce 1 0x81, []) := by decide
theorem test_decode_ldrrnn : decode [0b00_01_0001, 0x34, 0x12] = .ok (.ldrrnn .de 0x1234, []) := by decide
theorem test_decode_incrr : decode [0b00_00_0011] = .ok (.incrr .bc, []) := by decide
theorem test_decode_decrr : decode [0b00_11_1011] = .ok (.decrr .sp, []) := by decide
theorem test_decode_addHLrr : decode [0b00_10_1001] = .ok (.addHLrr .hl, []) := by decide
theorem test_decode_incr : decode [0b00_011_100] = .ok (.incr .e, []) := by decide
theorem test_decode_decr : decode [0b00_111_101] = .ok (.decr .a, []) := by decide
theorem test_decode_ldrn : decode [0b00_000_110, 0x88] = .ok (.ldrn .b 0x88, []) := by decide
theorem test_decode_ldrHL : decode [0b01_101_110] = .ok (.ldrHL .l, []) := by decide
theorem test_decode_ldHLr : decode [0b01110_001] = .ok (.ldHLr .c, []) := by decide
theorem test_decode_ldrr : decode [0b01_100_010] = .ok (.ldrr .h .d, []) := by decide
theorem test_decode_addr : decode [0b10000_011] = .ok (.addr .e, []) := by decide
theorem test_decode_adcr : decode [0b10001_111] = .ok (.adcr .a, []) := by decide
theorem test_decode_subr : decode [0b10010_000] = .ok (.subr .b, []) := by decide
theorem test_decode_sbcr : decode [0b10011_101] = .ok (.sbcr .l, []) := by decide
theorem test_decode_andr : decode [0b10100_001] = .ok (.andr .c, []) := by decide
theorem test_decode_xorr : decode [0b10101_100] = .ok (.xorr .h, []) := by decide
theorem test_decode_orr : decode [0b10110_010] = .ok (.orr .d, []) := by decide
theorem test_decode_cpr : decode [0b10111_011] = .ok (.cpr .e, []) := by decide
theorem test_decode_retcc : decode [0b110_01_000] = .ok (.retcc 1, []) := by decide
theorem test_decode_jpccnn : decode [0b110_10_010, 0x34, 0x12] = .ok (.jpccnn 2 0x1234, []) := by decide
theorem test_decode_callccnn : decode [0b110_11_100, 0x34, 0x12] = .ok (.callccnn 3 0x1234, []) := by decide
theorem test_decode_rstt : decode [0b11_000_111] = .ok (.rstt 0, []) := by decide
theorem test_decode_poprr : decode [0b11_01_0001] = .ok (.poprr .de, []) := by decide
theorem test_decode_pushrr : decode [0b11_01_0101] = .ok (.pushrr .de, []) := by decide
theorem test_decode_rlcHL : decode [0xCB, 0b00000110] = .ok (.rlcHL, []) := by decide
theorem test_decode_rrcHL : decode [0xCB, 0b00001110] = .ok (.rrcHL, []) := by decide
theorem test_decode_rlHL : decode [0xCB, 0b00010110] = .ok (.rlHL, []) := by decide
theorem test_decode_rrHL : decode [0xCB, 0b00011110] = .ok (.rrHL, []) := by decide
theorem test_decode_slaHL : decode [0xCB, 0b00100110] = .ok (.slaHL, []) := by decide
theorem test_decode_sraHL : decode [0xCB, 0b00101110] = .ok (.sraHL, []) := by decide
theorem test_decode_swapHL : decode [0xCB, 0b00110110] = .ok (.swapHL, []) := by decide
theorem test_decode_srlHL : decode [0xCB, 0b00111110] = .ok (.srlHL, []) := by decide
theorem test_decode_bitbHL : decode [0xCB, 0b01_001_110] = .ok (.bitbHL 1, []) := by decide
theorem test_decode_rlcr : decode [0xCB, 0b00000_111] = .ok (.rlcr .a, []) := by decide
theorem test_decode_rrcr : decode [0xCB, 0b00001_000] = .ok (.rrcr .b, []) := by decide
theorem test_decode_rlr : decode [0xCB, 0b00010_101] = .ok (.rlr .l, []) := by decide
theorem test_decode_rrr : decode [0xCB, 0b00011_001] = .ok (.rrr .c, []) := by decide
theorem test_decode_slar : decode [0xCB, 0b00100_100] = .ok (.slar .h, []) := by decide
theorem test_decode_srar : decode [0xCB, 0b00101_010] = .ok (.srar .d, []) := by decide
theorem test_decode_swapr : decode [0xCB, 0b00110_011] = .ok (.swapr .e, []) := by decide
theorem test_decode_srlr : decode [0xCB, 0b00111_111] = .ok (.srlr .a, []) := by decide
theorem test_decode_bitbr : decode [0xCB, 0b01_100_101] = .ok (.bitbr 4 .l, []) := by decide
theorem test_decode_resbr : decode [0xCB, 0b10_010_110] = .ok (.resbr 2 6, []) := by decide
theorem test_decode_setbr : decode [0xCB, 0b11_000_110] = .ok (.setbr 0 6, []) := by decide

/-- The prefix row's byte with an `op2` is the row `op2` selects (R96). -/
theorem test_decode_prefix : decode [0b11001011, 0b00110110] = .ok (.swapHL, []) := by decide

/-! ## One instruction each -/

/-- R141. -/
theorem test_ldrr :
    gives (exec (.ldrr .a .b) { start with bc := 0xBEEF, af := 0x0010 }) (fun t => t.af == 0xBE10 && t.pc == 0x0101) = true := by decide

/-- R142. -/
theorem test_ldrn :
    gives (exec (.ldrn .a 0x07) { start with af := 0x00F0 }) (fun t => t.af == 0x07F0 && t.pc == 0x0102) = true := by decide

/-- R143. -/
theorem test_ldrHL :
    gives (exec (.ldrHL .h) { start with hl := 0xC000, mem := [(0xC000, 0x12)] }) (fun t => t.hl == 0x1200) = true := by decide

/-- R144. -/
theorem test_ldHLr :
    gives (exec (.ldHLr .h) { start with hl := 0xC0DE }) (fun t => t.memRead1 0xC0DE == 0xC0) = true := by decide

/-- R145. -/
theorem test_ldHLn :
    gives (exec (.ldHLn 0x5A) { start with hl := 0xC000 }) (fun t => t.memRead1 0xC000 == 0x5A && t.pc == 0x0102) = true := by decide

/-- R146. -/
theorem test_ldaBC :
    gives (exec (.ldaBC) { start with bc := 0x1234, mem := [(0x1234, 0x99)] }) (fun t => t.get8 .a == 0x99) = true := by decide

/-- R147. -/
theorem test_ldaDE :
    gives (exec (.ldaDE) { start with de := 0xFFFF, mem := [(0xFFFF, 0x01)] }) (fun t => t.get8 .a == 0x01) = true := by decide

/-- R148. -/
theorem test_ldBCa :
    gives (exec (.ldBCa) { start with af := 0x4200, bc := 0xC100 }) (fun t => t.memRead1 0xC100 == 0x42) = true := by decide

/-- R149. -/
theorem test_ldDEa :
    gives (exec (.ldDEa) { start with af := 0x4200, de := 0x0000 }) (fun t => t.memRead1 0x0000 == 0x42) = true := by decide

/-- R150. -/
theorem test_ldAnn :
    gives (exec (.ldAnn 0x1234) { start with mem := [(0x1234, 0x77)] }) (fun t => t.get8 .a == 0x77 && t.pc == 0x0103) = true := by decide

/-- R151. -/
theorem test_ldnnA :
    gives (exec (.ldnnA 0xC000) { start with af := 0x5A00 }) (fun t => t.memRead1 0xC000 == 0x5A && t.pc == 0x0103) = true := by decide

/-- R152. -/
theorem test_ldhaC :
    gives (exec (.ldhaC) { start with bc := 0x0080, mem := [(0xFF80, 0x3C)] }) (fun t => t.get8 .a == 0x3C) = true := by decide

/-- R153. -/
theorem test_ldhCa :
    gives (exec (.ldhCa) { start with af := 0x9100, bc := 0x0040 }) (fun t => t.memRead1 0xFF40 == 0x91) = true := by decide

/-- R154. -/
theorem test_ldhAn :
    gives (exec (.ldhAn 0x44) { start with mem := [(0xFF44, 0x90)] }) (fun t => t.get8 .a == 0x90 && t.pc == 0x0102) = true := by decide

/-- R155. -/
theorem test_ldhnA :
    gives (exec (.ldhnA 0x80) { start with af := 0x1200 }) (fun t => t.memRead1 0xFF80 == 0x12) = true := by decide

/-- R156. -/
theorem test_ldaHLm :
    gives (exec (.ldaHLm) { start with hl := 0xC001, mem := [(0xC001, 0xAB)] }) (fun t => t.get8 .a == 0xAB && t.hl == 0xC000) = true := by decide

/-- R156. -/
theorem test_ldaHLm_wraps :
    gives (exec (.ldaHLm) { start with hl := 0x0000, mem := [(0x0000, 0xAB)] }) (fun t => t.get8 .a == 0xAB && t.hl == 0xFFFF) = true := by decide

/-- R157. -/
theorem test_ldaHLp :
    gives (exec (.ldaHLp) { start with hl := 0xC000, mem := [(0xC000, 0xCD)] }) (fun t => t.get8 .a == 0xCD && t.hl == 0xC001) = true := by decide

/-- R158. -/
theorem test_ldHLam :
    gives (exec (.ldHLam) { start with hl := 0x9FFF, mem := [(0x9FFF, 0x55)] }) (fun t => t.memRead1 0x9FFF == 0x00 && t.hl == 0x9FFE) = true := by decide

/-- R159. -/
theorem test_ldHLap :
    gives (exec (.ldHLap) { start with af := 0x1200, hl := 0xC000 }) (fun t => t.memRead1 0xC000 == 0x12 && t.hl == 0xC001) = true := by decide

/-- R159. -/
theorem test_ldHLap_wraps :
    gives (exec (.ldHLap) { start with af := 0x1200, hl := 0xFFFF }) (fun t => t.memRead1 0xFFFF == 0x12 && t.hl == 0x0000) = true := by decide

/-- R160. -/
theorem test_ldrrnn :
    gives (exec (.ldrrnn .hl 0xDEAD) start) (fun t => t.hl == 0xDEAD) = true := by decide

/-- R160. -/
theorem test_ldrrnn_sp :
    gives (exec (.ldrrnn .sp 0xFFFE) start) (fun t => t.sp == 0xFFFE) = true := by decide

/-- R161. -/
theorem test_ldnnSP :
    gives (exec (.ldnnSP 0xC100) { start with sp := 0xFFF8 }) (fun t => t.memRead1 0xC100 == 0xF8 && t.memRead1 0xC101 == 0xFF) = true := by decide

/-- R161. -/
theorem test_ldnnSP_wraps :
    gives (exec (.ldnnSP 0xFFFF) { start with sp := 0x1234 }) (fun t => t.memRead1 0xFFFF == 0x34 && t.memRead1 0x0000 == 0x12) = true := by decide

/-- R162. -/
theorem test_ldSPHL :
    gives (exec (.ldSPHL) { start with hl := 0xD000 }) (fun t => t.sp == 0xD000) = true := by decide

/-- R163. -/
theorem test_ldHLSPpe :
    gives (exec (.ldHLSPpe 0xFE) { start with sp := 0xFFF8, af := 0x00C0 }) (fun t => t.hl == 0xFFF6 && t.get8 .f == 0x30 && t.sp == 0xFFF8) = true := by decide

/-- R163. -/
theorem test_ldHLSPpe_zero :
    gives (exec (.ldHLSPpe 0xFF) { start with sp := 0x0001 }) (fun t => t.hl == 0x0000 && t.get8 .f == 0x30) = true := by decide

/-- R181. -/
theorem test_pushrr :
    gives (exec (.pushrr .bc) { start with bc := 0xBEEF, sp := 0xD000 }) (fun t => t.sp == 0xCFFE && t.memRead1 0xCFFE == 0xEF && t.memRead1 0xCFFF == 0xBE && t.pc == 0x0101) = true := by decide

/-- R181. -/
theorem test_pushrr_wraps :
    gives (exec (.pushrr .af) { start with af := 0xFACE, sp := 0x0001 }) (fun t => t.sp == 0xFFFF && t.memRead1 0xFFFF == 0xCE && t.memRead1 0x0000 == 0xFA) = true := by decide

/-- R182. -/
theorem test_poprr :
    gives (exec (.poprr .bc) { start with sp := 0xCFFE, mem := [(0xCFFE, 0xEF), (0xCFFF, 0xBE)] }) (fun t => t.bc == 0xBEEF && t.sp == 0xD000) = true := by decide

/-- R182. -/
theorem test_poprr_wraps :
    gives (exec (.poprr .de) { start with sp := 0xFFFF, mem := [(0x0000, 0x12), (0xFFFF, 0x34)] }) (fun t => t.de == 0x1234 && t.sp == 0x0001) = true := by decide

/-- R183. -/
theorem test_popAF :
    gives (exec (.popAF) { start with sp := 0xCFFE, mem := [(0xCFFE, 0xCE), (0xCFFF, 0xFA)] }) (fun t => t.af == 0xFAC0 && t.sp == 0xD000) = true := by decide

/-- R183. -/
theorem test_popAF_low :
    gives (exec (.popAF) { start with sp := 0xCFFE, af := 0x000F, mem := [(0xCFFE, 0x0F)] }) (fun t => t.get8 .f == 0x00) = true := by decide

/-- R191. -/
theorem test_addr :
    gives (exec (.addr .b) { start with af := 0x07F0, bc := 0x0800 }) (fun t => t.af == 0x0F00 && t.pc == 0x0101) = true := by decide

/-- R191. -/
theorem test_addr_self :
    gives (exec (.addr .a) { start with af := 0x8000 }) (fun t => t.af == 0x0090) = true := by decide

/-- R192. -/
theorem test_addHL :
    gives (exec (.addHL) { start with af := 0x3A00, hl := 0xC000, mem := [(0xC000, 0xC6)] }) (fun t => t.af == 0x00B0) = true := by decide

/-- R193. -/
theorem test_addn :
    gives (exec (.addn 0xFF) { start with af := 0x3C00 }) (fun t => t.af == 0x3B30) = true := by decide

/-- R194. -/
theorem test_adcr :
    gives (exec (.adcr .e) { start with af := 0xE110, de := 0x000F }) (fun t => t.af == 0xF120) = true := by decide

/-- R194. -/
theorem test_adcr_second_stage :
    gives (exec (.adcr .b) { start with af := 0xFF10 }) (fun t => t.af == 0x00B0) = true := by decide

/-- R195. -/
theorem test_adcHL :
    gives (exec (.adcHL) { start with af := 0xE110, hl := 0xC000, mem := [(0xC000, 0x1E)] }) (fun t => t.af == 0x00B0) = true := by decide

/-- R196. -/
theorem test_adcn :
    gives (exec (.adcn 0x3B) { start with af := 0xE110 }) (fun t => t.af == 0x1D10 && t.pc == 0x0102) = true := by decide

/-- R197. -/
theorem test_subr :
    gives (exec (.subr .e) { start with af := 0x3E00, de := 0x003E }) (fun t => t.af == 0x00C0) = true := by decide

/-- R198. -/
theorem test_subHL :
    gives (exec (.subHL) { start with af := 0x3E00, hl := 0xC000, mem := [(0xC000, 0x40)] }) (fun t => t.af == 0xFE50) = true := by decide

/-- R199. -/
theorem test_subn :
    gives (exec (.subn 0x0F) { start with af := 0x3E00 }) (fun t => t.af == 0x2F60) = true := by decide

/-- R200. -/
theorem test_sbcr :
    gives (exec (.sbcr .h) { start with af := 0x3B10, hl := 0x2A00 }) (fun t => t.af == 0x1040) = true := by decide

/-- R200. -/
theorem test_sbcr_self :
    gives (exec (.sbcr .a) { start with af := 0x0010 }) (fun t => t.af == 0xFF70) = true := by decide

/-- R201. -/
theorem test_sbcHL :
    gives (exec (.sbcHL) { start with af := 0x3B10, hl := 0xC000, mem := [(0xC000, 0x4F)] }) (fun t => t.af == 0xEB70) = true := by decide

/-- R202. -/
theorem test_sbcn :
    gives (exec (.sbcn 0x3A) { start with af := 0x3B10 }) (fun t => t.af == 0x00C0) = true := by decide

/-- R203. -/
theorem test_cpr :
    gives (exec (.cpr .b) { start with af := 0x3C00, bc := 0x2F00 }) (fun t => t.af == 0x3C60) = true := by decide

/-- R204. -/
theorem test_cpHL :
    gives (exec (.cpHL) { start with af := 0x3C00, hl := 0xC000, mem := [(0xC000, 0x40)] }) (fun t => t.af == 0x3C50) = true := by decide

/-- R205. -/
theorem test_cpn :
    gives (exec (.cpn 0x3C) { start with af := 0x3C00 }) (fun t => t.af == 0x3CC0) = true := by decide

/-- R206. -/
theorem test_incr :
    gives (exec (.incr .a) { start with af := 0xFF00 }) (fun t => t.af == 0x00A0) = true := by decide

/-- R206. -/
theorem test_incr_keeps_carry :
    gives (exec (.incr .b) { start with af := 0x0010, bc := 0x0F00 }) (fun t => t.bc == 0x1000 && t.get8 .f == 0x30) = true := by decide

/-- R207. -/
theorem test_incHL :
    gives (exec (.incHL) { start with hl := 0xC000, mem := [(0xC000, 0x50)] }) (fun t => t.memRead1 0xC000 == 0x51 && t.get8 .f == 0x00) = true := by decide

/-- R208. -/
theorem test_decr :
    gives (exec (.decr .l) { start with hl := 0x0001 }) (fun t => t.hl == 0x0000 && t.get8 .f == 0xC0) = true := by decide

/-- R209. -/
theorem test_decHL :
    gives (exec (.decHL) { start with hl := 0xC000, af := 0x0010 }) (fun t => t.memRead1 0xC000 == 0xFF && t.get8 .f == 0x70) = true := by decide

/-- R210. -/
theorem test_addHLrr :
    gives (exec (.addHLrr .bc) { start with hl := 0x8A23, bc := 0x0605, af := 0x00C0 }) (fun t => t.hl == 0x9028 && t.get8 .f == 0x20) = true := by decide

/-- R210. -/
theorem test_addHLrr_self :
    gives (exec (.addHLrr .hl) { start with hl := 0x8000 }) (fun t => t.hl == 0x0000 && t.get8 .f == 0x90) = true := by decide

/-- R211. -/
theorem test_addSPpe :
    gives (exec (.addSPpe 0x02) { start with sp := 0xFFF8, af := 0x00F0 }) (fun t => t.sp == 0xFFFA && t.get8 .f == 0x00) = true := by decide

/-- R211. -/
theorem test_addSPpe_negative :
    gives (exec (.addSPpe 0xFE) { start with sp := 0xD000 }) (fun t => t.sp == 0xCFFE && t.get8 .f == 0x00) = true := by decide

/-- R221. -/
theorem test_andr :
    gives (exec (.andr .l) { start with af := 0x5A00, hl := 0x003F }) (fun t => t.af == 0x1A20) = true := by decide

/-- R222. -/
theorem test_andHL :
    gives (exec (.andHL) { start with af := 0x5A00, hl := 0xC000 }) (fun t => t.af == 0x00A0) = true := by decide

/-- R223. -/
theorem test_andn :
    gives (exec (.andn 0x38) { start with af := 0x5A00 }) (fun t => t.af == 0x1820) = true := by decide

/-- R224. -/
theorem test_orr :
    gives (exec (.orr .a) { start with af := 0x5AF0 }) (fun t => t.af == 0x5A00) = true := by decide

/-- R225. -/
theorem test_orHL :
    gives (exec (.orHL) { start with af := 0x5A00, hl := 0xC000, mem := [(0xC000, 0x0F)] }) (fun t => t.af == 0x5F00) = true := by decide

/-- R226. -/
theorem test_orn :
    gives (exec (.orn 0x03) { start with af := 0x5A00 }) (fun t => t.af == 0x5B00) = true := by decide

/-- R227. -/
theorem test_xorr :
    gives (exec (.xorr .a) { start with af := 0xFF00 }) (fun t => t.af == 0x0080) = true := by decide

/-- R228. -/
theorem test_xorHL :
    gives (exec (.xorHL) { start with af := 0xFF00, hl := 0xC000, mem := [(0xC000, 0x8A)] }) (fun t => t.af == 0x7500) = true := by decide

/-- R229. -/
theorem test_xorn :
    gives (exec (.xorn 0x0F) { start with af := 0xFF00 }) (fun t => t.af == 0xF000) = true := by decide

/-- R231. -/
theorem test_ccf :
    gives (exec (.ccf) { start with af := 0x00F0 }) (fun t => t.get8 .f == 0x80) = true := by decide

/-- R231. -/
theorem test_ccf_sets :
    gives (exec (.ccf) start) (fun t => t.get8 .f == 0x10) = true := by decide

/-- R232. -/
theorem test_scf :
    gives (exec (.scf) { start with af := 0x00E0 }) (fun t => t.get8 .f == 0x90) = true := by decide

/-- R233. -/
theorem test_daa :
    gives (exec (.daa) { start with af := 0x9A00 }) (fun t => t.af == 0x0090) = true := by decide

/-- R233. -/
theorem test_daa_subtract :
    gives (exec (.daa) { start with af := 0x0070 }) (fun t => t.af == 0x9A50) = true := by decide

/-- R234. -/
theorem test_cpl :
    gives (exec (.cpl) { start with af := 0x3500 }) (fun t => t.af == 0xCA60) = true := by decide

/-- R241. -/
theorem test_rlca :
    gives (exec (.rlca) { start with af := 0x85F0 }) (fun t => t.af == 0x0BF0 && t.pc == 0x0101) = true := by decide

/-- R242. -/
theorem test_rrca :
    gives (exec (.rrca) { start with af := 0x8500 }) (fun t => t.af == 0xC210) = true := by decide

/-- R243. -/
theorem test_rla :
    gives (exec (.rla) { start with af := 0x0110 }) (fun t => t.af == 0x0300) = true := by decide

/-- R244. -/
theorem test_rra :
    gives (exec (.rra) { start with af := 0x85F0 }) (fun t => t.af == 0xC2F0) = true := by decide

/-- R245. -/
theorem test_rlcr :
    gives (exec (.rlcr .b) { start with bc := 0x8500 }) (fun t => t.bc == 0x0B00 && t.get8 .f == 0x10 && t.pc == 0x0102) = true := by decide

/-- R246. -/
theorem test_rlcHL :
    gives (exec (.rlcHL) { start with hl := 0xC000, mem := [(0xC000, 0x85)] }) (fun t => t.memRead1 0xC000 == 0x0B && t.get8 .f == 0x10) = true := by decide

/-- R247. -/
theorem test_rrcr :
    gives (exec (.rrcr .b) { start with bc := 0xF000, af := 0x0010 }) (fun t => t.bc == 0x7800 && t.get8 .f == 0x00) = true := by decide

/-- R248. -/
theorem test_rrcHL :
    gives (exec (.rrcHL) { start with hl := 0xC000, mem := [(0xC000, 0x01)] }) (fun t => t.memRead1 0xC000 == 0x80 && t.get8 .f == 0x10) = true := by decide

/-- R249. -/
theorem test_rlr :
    gives (exec (.rlr .b) { start with bc := 0x8500, af := 0x00F0 }) (fun t => t.bc == 0x0B00 && t.get8 .f == 0xF0) = true := by decide

/-- R250. -/
theorem test_rlHL :
    gives (exec (.rlHL) { start with hl := 0xC000, af := 0x0010 }) (fun t => t.memRead1 0xC000 == 0x01 && t.get8 .f == 0x00) = true := by decide

/-- R251. -/
theorem test_rrr :
    gives (exec (.rrr .b) { start with bc := 0xF000, af := 0x0010 }) (fun t => t.bc == 0xF800 && t.get8 .f == 0x00) = true := by decide

/-- R252. -/
theorem test_rrHL :
    gives (exec (.rrHL) { start with hl := 0xC000, af := 0x00F0, mem := [(0xC000, 0x85)] }) (fun t => t.memRead1 0xC000 == 0xC2 && t.get8 .f == 0xF0) = true := by decide

/-- R253. -/
theorem test_slar :
    gives (exec (.slar .b) { start with bc := 0xF000, af := 0x0010 }) (fun t => t.bc == 0xE000 && t.get8 .f == 0x10) = true := by decide

/-- R254. -/
theorem test_slaHL :
    gives (exec (.slaHL) { start with hl := 0xC000, mem := [(0xC000, 0x80)] }) (fun t => t.memRead1 0xC000 == 0x00 && t.get8 .f == 0x10) = true := by decide

/-- R255. -/
theorem test_srar :
    gives (exec (.srar .b) { start with bc := 0xF000, af := 0x0010 }) (fun t => t.bc == 0xF800 && t.get8 .f == 0x00) = true := by decide

/-- R256. -/
theorem test_sraHL :
    gives (exec (.sraHL) { start with hl := 0xC000, mem := [(0xC000, 0x80)] }) (fun t => t.memRead1 0xC000 == 0xC0 && t.get8 .f == 0x00) = true := by decide

/-- R257. -/
theorem test_srlr :
    gives (exec (.srlr .b) { start with bc := 0x8500 }) (fun t => t.bc == 0x4200 && t.get8 .f == 0x10) = true := by decide

/-- R258. -/
theorem test_srlHL :
    gives (exec (.srlHL) { start with hl := 0xC000, mem := [(0xC000, 0x01)] }) (fun t => t.memRead1 0xC000 == 0x00 && t.get8 .f == 0x10) = true := by decide

/-- R259. -/
theorem test_swapr :
    gives (exec (.swapr .b) { start with bc := 0x8500, af := 0x00F0 }) (fun t => t.bc == 0x5800 && t.get8 .f == 0x00) = true := by decide

/-- R260. -/
theorem test_swapHL :
    gives (exec (.swapHL) { start with hl := 0xC000, af := 0x0010, mem := [(0xC000, 0xF0)] }) (fun t => t.memRead1 0xC000 == 0x0F && t.get8 .f == 0x00) = true := by decide

/-- R271. -/
theorem test_bitbr :
    gives (exec (.bitbr 7 .h) { start with hl := 0x8000, af := 0x0010 }) (fun t => t.hl == 0x8000 && t.get8 .f == 0x30) = true := by decide

/-- R271. -/
theorem test_bitbr_zero :
    gives (exec (.bitbr 0 .a) { start with af := 0xFE50 }) (fun t => t.af == 0xFEB0) = true := by decide

/-- R272. -/
theorem test_bitbHL :
    gives (exec (.bitbHL 3) { start with hl := 0xC000, af := 0x00F0, mem := [(0xC000, 0x08)] }) (fun t => t.memRead1 0xC000 == 0x08 && t.get8 .f == 0x30) = true := by decide

/-- R272. -/
theorem test_bitbHL_zero :
    gives (exec (.bitbHL 3) { start with hl := 0xC000, mem := [(0xC000, 0xF7)] }) (fun t => t.get8 .f == 0xA0) = true := by decide

/-- R260. -/
theorem test_prefixCB :
    gives (exec (.prefixCB 0x36) { start with hl := 0xC000, af := 0x0010, mem := [(0xC000, 0xF0)] }) (fun t => t.memRead1 0xC000 == 0x0F && t.get8 .f == 0x00 && t.pc == 0x0102) = true := by decide

/-! ## Stops, profiles, steps -/

/-- R281: the illegal byte is recorded. -/
theorem test_illegal : exec .illegalFD start = .fault (.illegalOpcode 0xFD) := rfl

/-- R282, RES 0,A. -/
theorem test_res : exec (.resbr 0 7) start = .refused (.notInCoreCB 0x87) := rfl

/-- R282, RET C. -/
theorem test_retcc : exec (.retcc 3) start = .refused (.notInCore 0xD8) := rfl

/-- R282, RST 56. -/
theorem test_rstt : exec (.rstt 7) start = .refused (.notInCore 0xFF) := rfl

/-- The example of R241 under `silicon`. -/
theorem test_silicon_rlca :
    gives (execUnder .silicon .rlca { start with af := 0x85F0 }) (fun t => t.af == 0x0B10) = true := by decide

/-- The example of R258 under `silicon`. -/
theorem test_silicon_srlHL :
    gives (execUnder .silicon .srlHL { start with hl := 0xC000, mem := [(0xC000, 0x01)] })
      (fun t => t.get8 .f == 0x90) = true := by decide

/-- The example of R210 under `silicon`: Z keeps its value. -/
theorem test_silicon_addHLrr :
    gives (execUnder .silicon (.addHLrr .hl) { start with hl := 0x8000 }) (fun t => t.get8 .f == 0x10) = true := by decide

/-- R142's corner case: at 0xFFFF the immediate comes from 0x0000, and PC becomes 0x0001. -/
theorem test_step_wraps :
    gives (step { start with pc := 0xFFFF, mem := [(0x0000, 0x42), (0xFFFF, 0x3E)] })
      (fun t => t.get8 .a == 0x42 && t.pc == 0x0001) = true := by decide

/-- R101: 0xCB with an `op2` that is not in the block. -/
theorem test_step_prefix_not_in_core :
    step { start with mem := [(0x0100, 0xCB), (0x0101, 0x87)] } = .refused (.notInCoreCB 0x87) := by rfl

/-- Reset memory reads 0x00 at PC, which is NOP and not in the block. -/
theorem test_step_from_reset : step State.reset = .refused (.notInCore 0x00) := by rfl

/-- The word the host places at PC is what the next step runs: LD (HL),n. -/
theorem test_fetch_word :
    gives (step (State.reset.withFetchWord 16 0x5A36)) (fun t => t.memRead1 0x0000 == 0x5A && t.pc == 0x0002) = true := by
  decide

/-- The worked example of R61 to R63. -/
theorem test_memory_example :
    let s : State := { start with mem := [(1, 0x93), (2, 0xFF), (3, 0x54), (4, 0xAE), (5, 0xDD), (6, 0x12), (7, 0x03), (8, 0x41)] }
    s.memRead1 2 = 0xFF ∧ s.memRead2 1 = 0xFF93 ∧ (s.memWrite1 3 0xFE).memRead1 3 = 0xFE := by decide

/-- Writing what an unlisted cell reads as leaves no entry. -/
theorem test_memory_canonical : Memory.write (Memory.write [] 5 0x12) 5 0x00 = [] := by decide

/-- The preset of G9, whose F is 0xB0, meets `FLowZero`. -/
theorem test_post_boot_preset : (State.ofInit Config.postBootRegs []).fLow = 0 := by decide

/-- The corner cases of R130, R131, R132 and R136. -/
theorem test_alu_corners :
    add8 0xFF 0x01 = { result := 0x00, carry := true, half := true } ∧
    sub8 0x0F 0xF0 = { result := 0x1F, carry := true, half := false } ∧
    add16 0x00FF 0x0001 = { result := 0x0100, carry := false, half := false } ∧
    adc8 0xFF 0xFF true = { result := 0xFF, carry := true, half := true } ∧
    sbc8 0x00 0xFF true = { result := 0x00, carry := true, half := true } := by decide

/-! ## Witnesses for the hypotheses of the statements -/

theorem witness_EveryMemoryContentsHasOneCanonicalForm :
    ∃ m : Memory, m.wf = true ∧ ∀ a : Word, Memory.read m a.toNat = if a.toNat = 0xFFFF then 0x12 else 0x00 := by
  refine ⟨[(0xFFFF, 0x12)], by decide, fun a => ?_⟩
  by_cases h : a.toNat = 0xFFFF <;> simp [Memory.read, h, Config.unlistedByte]

theorem witness_HalvesAreViewsOfTheirRegister : Half.f ≠ Half.a ∧ Half.a ∉ Reg16.bc.halves := by decide

theorem witness_RegisterWriteReplacesAllSixteenBits : Reg16.sp ≠ Reg16.af ∧ Half.b ∉ Reg16.af.halves := by decide

theorem witness_FlagsAreBitsSevenToFourOfF : 7 < 8 ∧ 7 ≠ flagPos .n ∧ 3 ≠ flagPos .c ∧ Reg16.bc ≠ Reg16.af := by decide

theorem witness_ByteWriteReplacesOneCell : (0x0000 : Word) ≠ 0xFFFF := by decide

theorem witness_WordWriteIsTwoByteWrites : (0x0001 : Word) ≠ 0xFFFF ∧ (0x0001 : Word) ≠ 0xFFFF + 1 := by decide

theorem witness_DecodeInvertsEncode : (Instr.setbr 7 7).wf = true ∧ (Instr.nop).wf = true := by decide

theorem witness_EncodeInvertsDecode : decode [0xCB, 0xFF, 0x12] = .ok (.setbr 7 7, [0x12]) := by decide

theorem witness_DecodeIsTotalAndReadsItsLength : lengthOf 0xFF = 1 ∧ lengthOf 0xCB = 2 := by decide

/-- LD BC,0x1234 at 0xFFFE, its last byte at 0x0000. -/
def wrapped : State := { start with pc := 0xFFFE, mem := [(0x0000, 0x12), (0xFFFE, 0x01), (0xFFFF, 0x34)] }

theorem witness_StepRunsTheDecodedInstruction :
    decode [wrapped.memRead1 wrapped.pc, wrapped.memRead1 (wrapped.pc + 1), wrapped.memRead1 (wrapped.pc + 2)] =
      .ok (.ldrrnn .bc 0x1234, []) ∧
    (Instr.ldrrnn .bc 0x1234).wf = true ∧
    ∀ k < (encode (.ldrrnn .bc 0x1234)).length,
      wrapped.memRead1 (wrapped.pc + BitVec.ofNat 16 k) = (encode (.ldrrnn .bc 0x1234)).getD k 0 := by decide

/-- Each case of the chain occurs, the two sides of 0x80 included. -/
theorem witness_DecodeAloneFixesTheOutcome :
    0xD3 ∈ illegalBytes ∧ (0x00 ∉ illegalBytes ∧ 0x00 ∈ notInCoreBytes) ∧
    (0xCB ∉ illegalBytes ∧ 0xCB ∉ notInCoreBytes ∧ 0x80 ≤ (0x80 : Byte).toNat ∧ ¬ 0x80 ≤ (0x7F : Byte).toNat) := by decide

/-- LD (0x0103),A with A = 0x3C, which writes the byte after itself. -/
def selfWriting : State := { start with af := 0x3C00, mem := [(0x0100, 0xEA), (0x0101, 0x03), (0x0102, 0x01)] }

/-- INC (HL) at HL, which turns itself into DEC (HL). -/
def selfIncrementing : State := { start with hl := 0x0100, mem := [(0x0100, 0x34)] }

/-- PUSH DE at 0x0100 with SP = 0x0102: the high byte falls on the next opcode byte, the low one on PUSH itself. -/
def selfPushing : State := { start with de := 0x3C01, sp := 0x0102, mem := [(0x0100, 0xD5)] }

theorem witness_StoreIsSeenByTheNextFetch :
    ((Instr.ldnnA 0x0103).status = .core ∧
      (∀ k < (encode (.ldnnA 0x0103)).length,
        selfWriting.memRead1 (selfWriting.pc + BitVec.ofNat 16 k) = (encode (.ldnnA 0x0103)).getD k 0) ∧
      decode ([0x0103, 0x0104, 0x0105].map (byteAfter (stores (.ldnnA 0x0103) selfWriting) selfWriting)) =
        .ok (.incr .a, [0x00, 0x00])) ∧
    (Instr.incHL.status = .core ∧
      (∀ k < (encode .incHL).length,
        selfIncrementing.memRead1 (selfIncrementing.pc + BitVec.ofNat 16 k) = (encode .incHL).getD k 0) ∧
      byteAfter (stores .incHL selfIncrementing) selfIncrementing 0x0100 = 0x35 ∧
      decode ([0x0101, 0x0102, 0x0103].map (byteAfter (stores .incHL selfIncrementing) selfIncrementing)) =
        .ok (.nop, [0x00, 0x00])) ∧
    ((Instr.pushrr .de).status = .core ∧
      (∀ k < (encode (.pushrr .de)).length,
        selfPushing.memRead1 (selfPushing.pc + BitVec.ofNat 16 k) = (encode (.pushrr .de)).getD k 0) ∧
      byteAfter (stores (.pushrr .de) selfPushing) selfPushing 0x0100 = 0x01 ∧
      decode ([0x0101, 0x0102, 0x0103].map (byteAfter (stores (.pushrr .de) selfPushing) selfPushing)) =
        .ok (.incr .a, [0x00, 0x00])) := by decide

/-- The program of `selfWriting` runs the byte it has written. -/
theorem test_self_modifying :
    gives (step selfWriting) (fun t => gives (step t) (fun u => u.get8 .a == 0x3D && u.pc == 0x0104)) = true := by decide

/-- PUSH BC; POP BC with SP = 0x0001, across the top of memory. -/
def pushPop : State := { start with bc := 0xBEEF, sp := 0x0001, mem := [(0x0100, 0xC5), (0x0101, 0xC1)] }

theorem witness_PushThenPopRestores :
    pushPop.memRead1 pushPop.pc = 0xC5 + 16 * Pair.bc.code ∧ pushPop.memRead1 (pushPop.pc + 1) = 0xC1 + 16 * Pair.bc.code ∧
    pushPop.pc + 1 ≠ pushPop.sp - 2 ∧ pushPop.pc + 1 ≠ pushPop.sp - 1 := by decide

/-- PUSH AF; POP AF, F = 0xCE. -/
def pushPopAF : State := { start with af := 0xFACE, sp := 0xD000, mem := [(0x0100, 0xF5), (0x0101, 0xF1)] }

theorem witness_PushThenPopRestores_AF :
    pushPopAF.memRead1 pushPopAF.pc = 0xF5 ∧ pushPopAF.memRead1 (pushPopAF.pc + 1) = 0xF1 ∧
    pushPopAF.pc + 1 ≠ pushPopAF.sp - 2 ∧ pushPopAF.pc + 1 ≠ pushPopAF.sp - 1 ∧
    ((0x0000 : Word) ≠ pushPopAF.sp - 2 ∧ (0x0000 : Word) ≠ pushPopAF.sp - 1) := by decide

/-- The largest operands, and the smallest, with C = 1, in B and at HL. -/
theorem witness_DecimalArithmeticIsCorrect :
    (99 < 100 ∧ (State.get8 { start with af := 0x9910, bc := 0x9900 } .a) = bcd 99 ∧
      (State.get8 { start with af := 0x9910, bc := 0x9900 } R8.b.half) = bcd 99) ∧
    (0 < 100 ∧ (State.get8 { start with af := 0x0010, hl := 0x8000 } .a) = bcd 0 ∧
      (State.memRead1 { start with af := 0x0010, hl := 0x8000 } 0x8000) = bcd 0) ∧
    (State.memRead1 { start with hl := 0x8000, mem := [(0x8000, 0x99)] } 0x8000) = bcd 99 := by decide

/-- The document's scenario: 7 + 8, then DAA, is 15. -/
theorem test_add_then_daa :
    gives (exec (.addr .b) { start with af := 0x0700, bc := 0x0800 })
      (fun t => gives (exec .daa t) (fun u => u.af == 0x1500 && u.pc == 0x0102)) = true := by decide

theorem witness_SiliconProfileDifferences :
    Instr.rra ∈ [Instr.rlca, .rrca, .rla, .rra] ∧
    Instr.srlr .a ∈ [Instr.rlcr .a, .rrcr .a, .rlr .a, .rrr .a, .slar .a, .srar .a, .srlr .a] ∧
    Instr.rlcHL ∈ [Instr.rlcHL, .rrcHL, .rlHL, .rrHL, .slaHL, .sraHL, .srlHL] := by decide

theorem witness_ProfilesDifferNowhereElse : profiled (.swapr .b) = false := by decide

theorem witness_PrefixRowIsTheSelectedRow : (0x7F : Byte).toNat < 0x80 ∧ ¬ (0x80 : Byte).toNat < 0x80 := by decide

theorem witness_IllegalBytesFault :
    (State.memRead1 { start with mem := [(0x0100, 0xDD)] } 0x0100) = 0xDD ∧ (0xDD : Byte) ∈ illegalBytes := by decide

theorem witness_CoreInstructionsCompleteAndAdvancePC : (Instr.popAF).status = .core := by decide

/-- PUSH AF at 0x0100, where `FLowZero` holds and the memory is canonical. -/
def pushAF : State := { start with af := 0xFAC0, sp := 0xD000, mem := [(0x0100, 0xF5)] }

theorem witness_StepNeitherReadsNorWritesIRAndIE : ∃ t, step pushAF = .next t := ⟨_, rfl⟩

theorem witness_UnlistedFlagsAreUntouched : (∃ t, exec (.incr .b) start = .next t) ∧ Flag.c ∉ flagsWritten (.incr .b) :=
  ⟨⟨_, rfl⟩, by decide⟩

theorem witness_UnlistedCellsAreUntouched :
    (∃ t, exec (.pushrr .af) pushAF = .next t) ∧ (0xD000 : Word) ∉ cellsWritten (.pushrr .af) pushAF :=
  ⟨⟨_, rfl⟩, by decide⟩

theorem witness_SPIsWrittenByItsFiveOnly :
    (∃ t, exec (.ldrrnn .hl 0) start = .next t) ∧ writesSP (.ldrrnn .hl 0) = false :=
  ⟨⟨_, rfl⟩, by decide⟩

theorem witness_LowNibbleOfFIsWrittenByPopAFOnly :
    (∃ t, exec .popAF pushAF = .next t) ∧ ∃ t, exec .scf pushAF = .next t :=
  ⟨⟨_, rfl⟩, ⟨_, rfl⟩⟩

theorem witness_StepKeepsMemoryCanonical : pushAF.mem.wf = true ∧ ∃ t, step pushAF = .next t :=
  ⟨by decide, ⟨_, rfl⟩⟩

theorem witness_StepKeepsLowNibbleZero : FLowZero pushAF ∧ (∃ t, step pushAF = .next t) ∧ fetch pushAF = .pushrr .af :=
  ⟨rfl, ⟨_, rfl⟩, by decide⟩

end Sys2Proof.Tests
end

/-! Proofs for 00_scope.md: a step runs the instruction that is encoded at PC (R7), and how the two profiles differ (R3). -/

namespace Sys2Proof

open Sys2Proof.Machine

/-! ## The decoder on the bytes of an encoding (30_encoding.md R90 to R98) -/

/-- Any bytes that begin with the encoding of `i` decode to `i`, whatever stands after its last byte. -/
def DecodesFromItsBytes (i : Instr) : Prop :=
  ∀ b : Nat → Byte, (∀ k < (encode i).length, b k = (encode i).getD k 0) → decode3 (b 0) (b 1) (b 2) = i

section
variable {i : Instr} {b0 b1 b2 : Byte}

theorem decodesFromItsBytes_of_one (he : encode i = [b0]) (hd : ∀ x y, decode3 b0 x y = i) : DecodesFromItsBytes i := by
  intro b hb
  have h0 : b 0 = b0 := by simpa [he] using hb 0
  rw [h0]
  exact hd _ _

theorem decodesFromItsBytes_of_two (he : encode i = [b0, b1]) (hd : ∀ y, decode3 b0 b1 y = i) :
    DecodesFromItsBytes i := by
  intro b hb
  have h0 : b 0 = b0 := by simpa [he] using hb 0
  have h1 : b 1 = b1 := by simpa [he] using hb 1
  rw [h0, h1]
  exact hd _

theorem decodesFromItsBytes_of_three (he : encode i = [b0, b1, b2]) (hd : decode3 b0 b1 b2 = i) :
    DecodesFromItsBytes i := by
  intro b hb
  have h0 : b 0 = b0 := by simpa [he] using hb 0
  have h1 : b 1 = b1 := by simpa [he] using hb 1
  have h2 : b 2 = b2 := by simpa [he] using hb 2
  rw [h0, h1, h2]
  exact hd

end

/-! The rows whose byte holds a selector or a field: the decoder reads it back from its place in the byte. -/

theorem decodeCB_bitbr (b : BitVec 3) (r : R8) : decodeCB (0x40 + 8 * b.setWidth 8 + r.code) = .bitbr b r := by
  revert b
  cases r <;> decide

theorem decodeCB_bitbHL (b : BitVec 3) : decodeCB (0x46 + 8 * b.setWidth 8) = .bitbHL b := by
  revert b
  decide

theorem decodeCB_resbr (b r : BitVec 3) : decodeCB (0x80 + 8 * b.setWidth 8 + r.setWidth 8) = .resbr b r := by
  revert b r
  decide

theorem decodeCB_setbr (b r : BitVec 3) : decodeCB (0xC0 + 8 * b.setWidth 8 + r.setWidth 8) = .setbr b r := by
  revert b r
  decide

theorem decode3_ldrrnn (rr : Rp) (x y : Byte) : decode3 (0x01 + 16 * rr.code) x y = .ldrrnn rr (joinBytes y x) := by
  cases rr <;> rfl

/-- The four values of a condition code. -/
theorem cc_cases (cc : BitVec 2) : cc = 0 ∨ cc = 1 ∨ cc = 2 ∨ cc = 3 := by
  revert cc
  decide

theorem decode3_jrcce (cc : BitVec 2) (e y : Byte) : decode3 (0x20 + 8 * cc.setWidth 8) e y = .jrcce cc e := by
  obtain rfl | rfl | rfl | rfl := cc_cases cc <;> rfl

theorem decode3_retcc (cc : BitVec 2) (x y : Byte) : decode3 (0xC0 + 8 * cc.setWidth 8) x y = .retcc cc := by
  obtain rfl | rfl | rfl | rfl := cc_cases cc <;> rfl

theorem decode3_jpccnn (cc : BitVec 2) (x y : Byte) :
    decode3 (0xC2 + 8 * cc.setWidth 8) x y = .jpccnn cc (joinBytes y x) := by
  obtain rfl | rfl | rfl | rfl := cc_cases cc <;> rfl

theorem decode3_callccnn (cc : BitVec 2) (x y : Byte) :
    decode3 (0xC4 + 8 * cc.setWidth 8) x y = .callccnn cc (joinBytes y x) := by
  obtain rfl | rfl | rfl | rfl := cc_cases cc <;> rfl

theorem decode3_rstt (t : BitVec 3) (x y : Byte) : decode3 (0xC7 + 8 * t.setWidth 8) x y = .rstt t := by
  have ht : t = 0 ∨ t = 1 ∨ t = 2 ∨ t = 3 ∨ t = 4 ∨ t = 5 ∨ t = 6 ∨ t = 7 := by
    revert t
    decide
  obtain rfl | rfl | rfl | rfl | rfl | rfl | rfl | rfl := ht <;> rfl

/-- Every well-formed instruction is read back from its own bytes (R105). -/
theorem decodesFromItsBytes_of_wf (i : Instr) (hwf : i.wf = true) : DecodesFromItsBytes i := by
  cases i with
  | prefixCB op2 => cases hwf
  -- one byte, two selectors
  | ldrr dst src => exact decodesFromItsBytes_of_one rfl fun _ _ => by cases dst <;> cases src <;> rfl
  -- one byte, a selector in it
  | ldrHL r | ldHLr r | incr r | decr r | addr r | adcr r | subr r | sbcr r | cpr r | andr r | orr r | xorr r =>
    exact decodesFromItsBytes_of_one rfl fun _ _ => by cases r <;> rfl
  | addHLrr rr | pushrr rr | poprr rr | incrr rr | decrr rr =>
    exact decodesFromItsBytes_of_one rfl fun _ _ => by cases rr <;> rfl
  | retcc cc => exact decodesFromItsBytes_of_one rfl (decode3_retcc cc)
  | rstt t => exact decodesFromItsBytes_of_one rfl (decode3_rstt t)
  -- two bytes, the second an immediate
  | ldrn r n => exact decodesFromItsBytes_of_two rfl fun _ => by cases r <;> rfl
  | jrcce cc e => exact decodesFromItsBytes_of_two rfl (decode3_jrcce cc e)
  | ldHLn | ldhAn | ldhnA | ldHLSPpe | addn | adcn | subn | sbcn | cpn | addSPpe | andn | orn | xorn | jre =>
    exact decodesFromItsBytes_of_two rfl fun _ => rfl
  -- two bytes, the first 0xCB
  | rlcr r | rrcr r | rlr r | rrr r | slar r | srar r | swapr r | srlr r =>
    exact decodesFromItsBytes_of_two rfl fun _ => by cases r <;> rfl
  | rlcHL | rrcHL | rlHL | rrHL | slaHL | sraHL | swapHL | srlHL => exact decodesFromItsBytes_of_two rfl fun _ => rfl
  | bitbr b r => exact decodesFromItsBytes_of_two rfl fun _ => decodeCB_bitbr b r
  | bitbHL b => exact decodesFromItsBytes_of_two rfl fun _ => decodeCB_bitbHL b
  | resbr b r => exact decodesFromItsBytes_of_two rfl fun _ => decodeCB_resbr b r
  | setbr b r => exact decodesFromItsBytes_of_two rfl fun _ => decodeCB_setbr b r
  -- three bytes, the last two a word
  | ldrrnn rr nn => exact decodesFromItsBytes_of_three rfl (by rw [decode3_ldrrnn, joinBytes_hiByte_loByte])
  | jpccnn cc nn => exact decodesFromItsBytes_of_three rfl (by rw [decode3_jpccnn, joinBytes_hiByte_loByte])
  | callccnn cc nn => exact decodesFromItsBytes_of_three rfl (by rw [decode3_callccnn, joinBytes_hiByte_loByte])
  | ldAnn nn | ldnnA nn | ldnnSP nn | jpnn nn | callnn nn =>
    exact decodesFromItsBytes_of_three rfl (congrArg _ (joinBytes_hiByte_loByte nn))
  -- one byte without a field
  | _ => exact decodesFromItsBytes_of_one rfl fun _ _ => rfl

theorem step_eq_exec_of_fetch_eq {s : State} {i : Instr} (h : fetch s = i) : step s = exec i s :=
  congrArg (exec · s) h

theorem fetch_eq_of_decode_eq_ok {s : State} {i : Instr} {rest : List Byte}
    (h : decode [s.memRead1 s.pc, s.memRead1 (s.pc + 1), s.memRead1 (s.pc + 2)] = .ok (i, rest)) : fetch s = i :=
  (decode_eq_ok h).2.1

theorem fetch_eq_of_encoding_at_pc {s : State} {i : Instr} (hwf : i.wf = true)
    (h : ∀ k < (encode i).length, s.memRead1 (s.pc + BitVec.ofNat 16 k) = (encode i).getD k 0) : fetch s = i := by
  have hd := decodesFromItsBytes_of_wf i hwf (fun k => s.memRead1 (s.pc + BitVec.ofNat 16 k)) h
  simpa [fetch] using hd

/-- Settles O18: either reading of the bytes at PC says what `fetch` answers, and a step is `exec` of that. -/
theorem stepRunsTheDecodedInstruction : Obligations.StepRunsTheDecodedInstruction := by
  intro s i
  exact ⟨fun rest h => step_eq_exec_of_fetch_eq (fetch_eq_of_decode_eq_ok h),
    fun hwf h => step_eq_exec_of_fetch_eq (fetch_eq_of_encoding_at_pc hwf h)⟩

/-! ## Frames between two outcomes of one instruction -/

theorem Frame.symm {s t : State} {h : List Half} {f : List Flag} {r : List Reg16} {c : List Word}
    (st : Frame h f r c s t) : Frame h f r c t s where
  halves x hx hm := (st.halves x hx hm).symm
  flags g hm := (st.flags g hm).symm
  fLow := st.fLow.symm
  ir := st.ir.symm
  ie := st.ie.symm
  sp hm := (st.sp hm).symm
  cells a hm := (st.cells a hm).symm

theorem frame_self (fs : List Flag) (s : State) : Frame [] fs [] [] s s :=
  (Frame.refl s).mono (List.Subset.refl _) (List.nil_subset _) (List.Subset.refl _) (List.Subset.refl _)

/-- Ending two instructions the same way adds nothing to what distinguishes their states. -/
theorem Frame.advance {s t : State} {f : List Flag} (st : Frame [] f [] [] s t) (n : Word) :
    Frame [] f [] [] (s.advance n) (t.advance n) :=
  (((frame_advance s n).symm.trans st).trans (frame_advance t n)).mono (by simp) (by simp) (by simp) (by simp)

/-- Writing C, or all four flags with the same C: the results differ in Z, N and H at most. -/
theorem frame_setFlag_setZNHC (s : State) (z n h c : Bool) :
    Frame [] [.z, .n, .h] [] [] (s.setFlag .c c) (s.setZNHC z n h c) :=
  { (frame_setFlag s .c c).symm.trans (frame_setZNHC s z n h c) with
    flags := fun f hf => by cases f <;> simp_all }

/-- The second outcome is the first but for the listed flags of a next state. -/
def SameButFlags (fs : List Flag) (o o' : Host.Outcome State Fault Refusal) : Prop :=
  match o with
  | .next t => ∃ u, o' = .next u ∧ u.pc = t.pc ∧ Frame [] fs [] [] t u
  | .fault r => o' = .fault r
  | .refused r => o' = .refused r

theorem sameButFlags_refl (fs : List Flag) (o : Host.Outcome State Fault Refusal) : SameButFlags fs o o := by
  cases o with
  | next t => exact ⟨t, rfl, rfl, frame_self fs t⟩
  | fault r => rfl
  | refused r => rfl

/-! ## The shared operations under the two profiles (00_scope.md R3) -/

theorem frame_addHLFlags_profiles (s : State) (r : Alu 16) :
    Frame [] [.z] [] [] (s.addHLFlags .doc r) (s.addHLFlags .silicon r) :=
  (frame_setFlag _ .z _).symm

theorem frame_rotAccFlags_profiles (s : State) (c : Bool) :
    Frame [] [.z, .n, .h] [] [] (s.rotAccFlags .doc c) (s.rotAccFlags .silicon c) :=
  frame_setFlag_setZNHC s false false false c

theorem frame_rotFlags_profiles (s : State) (op : RotOp) (res : Byte) (c : Bool) :
    Frame [] [.z, .n, .h] [] [] (s.rotFlags .doc op res c) (s.rotFlags .silicon op res c) := by
  cases op with
  | swap => exact frame_self _ _
  | _ => exact frame_setFlag_setZNHC s (res == 0) false false c

theorem sameButFlags_addHLrrUnder (rr : Rp) (s : State) :
    SameButFlags [.z, .n, .h] (addHLrrUnder .doc rr s) (addHLrrUnder .silicon rr s) :=
  ⟨_, rfl, rfl, ((frame_addHLFlags_profiles _ _).advance 1).mono (by simp) (by simp) (by simp) (by simp)⟩

theorem sameButFlags_rotateAccUnder (op : RotOp) (s : State) :
    SameButFlags [.z, .n, .h] (rotateAccUnder .doc op s) (rotateAccUnder .silicon op s) :=
  ⟨_, rfl, rfl, (frame_rotAccFlags_profiles _ _).advance 1⟩

theorem sameButFlags_rotateUnder (op : RotOp) (g : Target8) (s : State) :
    SameButFlags [.z, .n, .h] (rotateUnder .doc op g s) (rotateUnder .silicon op g s) :=
  ⟨_, rfl, by simp, (frame_rotFlags_profiles _ op _ _).advance 2⟩

/-- The 0xCB row runs a rotate of either profile, a bit test or a refusal, and only the first depends on the profile. -/
theorem sameButFlags_prefixCBUnder (op2 : Byte) (s : State) :
    SameButFlags [.z, .n, .h] (prefixCBUnder .doc op2 s) (prefixCBUnder .silicon op2 s) := by
  unfold prefixCBUnder
  split
  · exact sameButFlags_rotateUnder _ _ s
  · exact sameButFlags_refl _ _
  · exact sameButFlags_refl _ _

/-! ## `exec` under the two profiles -/

theorem execUnder_doc (i : Instr) (s : State) : execUnder .doc i s = exec i s := by
  cases i <;> rfl

theorem execUnder_of_not_profiled {i : Instr} (h : profiled i = false) (p : FlagProfile) (s : State) :
    execUnder p i s = exec i s := by
  cases i with
  | addHLrr | rlca | rrca | rla | rra | rlcr | rlcHL | rrcr | rrcHL | rlr | rlHL | rrr | rrHL | slar | slaHL | srar
  | sraHL | srlr | srlHL | prefixCB => cases h
  | _ => rfl

/-- Where the profiles differ they differ in Z, N and H of the next state (46_rotate_shift.md R240 (e)). -/
theorem sameButFlags_execUnder (i : Instr) (s : State) :
    SameButFlags [.z, .n, .h] (exec i s) (execUnder .silicon i s) := by
  cases i with
  | addHLrr rr => exact sameButFlags_addHLrrUnder rr s
  | rlca | rrca | rla | rra => exact sameButFlags_rotateAccUnder _ s
  | rlcr | rlcHL | rrcr | rrcHL | rlr | rlHL | rrr | rrHL | slar | slaHL | srar | sraHL | srlr | srlHL =>
    exact sameButFlags_rotateUnder _ _ s
  | prefixCB op2 => exact sameButFlags_prefixCBUnder op2 s
  | _ => exact sameButFlags_refl _ _

/-- Settles O47: `exec` is the machine under `doc`, and the outcomes differ by the profiled operations' flags. -/
theorem profilesDifferNowhereElse : Obligations.ProfilesDifferNowhereElse := by
  intro i s
  exact ⟨execUnder_doc i s, fun h p => execUnder_of_not_profiled h p s, sameButFlags_execUnder i s⟩

/-! ## The three differences of `silicon` -/

/-- An accumulator rotate: Z, N and H are 0 under `silicon`. -/
theorem siliconFlags_of_rotateAccUnder {i : Instr} {s : State} {op : RotOp}
    (h : ∀ p, execUnder p i s = rotateAccUnder p op s) : SiliconFlags i s fun _ => false :=
  ⟨_, _, (execUnder_doc i s).symm.trans (h .doc), h .silicon, rfl, (frame_rotAccFlags_profiles _ _).advance 1,
    by simp [State.rotAccFlags], by simp [State.rotAccFlags], by simp [State.rotAccFlags]⟩

/-- A CB-prefixed member but SWAP: Z says that the operand, as it is left under `doc` too, is 0; N and H are 0. -/
theorem siliconFlags_of_rotateUnder {i : Instr} {s : State} {op : RotOp} {g : Target8}
    (h : ∀ p, execUnder p i s = rotateUnder p op g s) (hop : op ≠ .swap) :
    SiliconFlags i s fun t => targetIn g s t == 0 := by
  obtain ⟨t, ht, -, -, hres, -⟩ := rotateUnder_effect .doc op g s
  obtain ⟨u, hu, -, -, -, hflag⟩ := rotateUnder_effect .silicon op g s
  have hsame := sameButFlags_rotateUnder op g s
  rw [ht] at hsame
  obtain ⟨u', hu', hpc, hframe⟩ := hsame
  obtain rfl : u = u' := by simpa [hu] using hu'
  simp only [flag_rotFlags_silicon hop] at hflag
  exact ⟨t, u, (execUnder_doc i s).symm.trans ((h .doc).trans ht), (h .silicon).trans hu, hpc, hframe,
    (hflag .z).trans (by simp [hres]), hflag .n, hflag .h⟩

/-- `ADD HL,rr` under `silicon`: the next state of `doc` with Z as it was (43_arithmetic.md R210). -/
theorem addHLrr_silicon (rr : Rp) (s : State) :
    ∃ t u, exec (.addHLrr rr) s = .next t ∧ execUnder .silicon (.addHLrr rr) s = .next u ∧ u.pc = t.pc ∧
      Frame [] [.z] [] [] t u ∧ u.flag .z = s.flag .z := by
  obtain ⟨u, hu, -, hframe, -⟩ := addHLrrUnder_effect .silicon rr s
  cases hu
  exact ⟨_, _, rfl, rfl, rfl, (frame_addHLFlags_profiles _ _).advance 1, hframe.flags .z (by decide)⟩

/-- Settles O46: each named instruction is one of the three shared operations, whose differences the lemmas above state. -/
theorem siliconProfileDifferences : Obligations.SiliconProfileDifferences := by
  intro s
  refine ⟨fun rr => addHLrr_silicon rr s, ?_, fun r => ?_, ?_⟩
  all_goals simp only [List.forall_mem_cons, List.not_mem_nil, false_implies, implies_true, and_true]
  · refine ⟨?_, ?_, ?_, ?_⟩ <;> exact siliconFlags_of_rotateAccUnder fun _ => rfl
  · refine ⟨?_, ?_, ?_, ?_, ?_, ?_, ?_⟩ <;>
      exact siliconFlags_of_rotateUnder (g := .reg r) (fun _ => rfl) (by decide)
  · refine ⟨?_, ?_, ?_, ?_, ?_, ?_, ?_⟩ <;>
      exact siliconFlags_of_rotateUnder (g := .atHL) (fun _ => rfl) (by decide)

end Sys2Proof

/-! Proofs for 10_state.md: the parts of the state (R20 to R25, R34), the one canonical list of each memory contents (R31),
what an instruction may change (R28 to R30, R35, R36), and what every step keeps (R26, R31). -/

namespace Sys2Proof.Machine

/-! ## Halves, registers and flags are views of one another (R21 to R25) -/

theorem get16_set8 (s : State) {x : Half} {r : Reg16} (h : x ∉ r.halves) (v : Byte) :
    (s.set8 x v).get16 r = s.get16 r := by
  revert h
  cases x <;> cases r <;> simp [Reg16.halves, State.set8, State.get16]

theorem get8_set16 (s : State) {r : Reg16} {x : Half} (h : x ∉ r.halves) (v : Word) :
    (s.set16 r v).get8 x = s.get8 x := by
  revert h
  cases r <;> cases x <;> simp [Reg16.halves, State.set16, State.get8]

/-- AF is the one register that F is a halve of. -/
theorem f_notMem_halves {r : Reg16} (h : r ≠ .af) : Half.f ∉ r.halves := by
  revert h
  cases r <;> decide

theorem getLsbD_flagMask_of_ne {f : Flag} {k : Nat} (h : k ≠ flagPos f) : (flagMask f).getLsbD k = false := by
  simp [flagMask]
  omega

/-- The bits of F that a flag write keeps (R25). -/
theorem getLsbD_setFlag_of_ne (s : State) {f : Flag} (b : Bool) {k : Nat} (hk : k < 8) (h : k ≠ flagPos f) :
    ((s.setFlag f b).get8 .f).getLsbD k = (s.get8 .f).getLsbD k := by
  have hF : (s.setFlag f b).get8 .f = (s.get8 .f &&& ~~~flagMask f) ||| (if b then flagMask f else 0) := by
    simp [State.setFlag]
  have hmask : (flagMask f).getLsbD k = false := getLsbD_flagMask_of_ne h
  have hwritten : (if b then flagMask f else 0).getLsbD k = false := by
    cases b
    · exact BitVec.getLsbD_zero
    · exact hmask
  rw [hF, BitVec.getLsbD_or, BitVec.getLsbD_and, BitVec.getLsbD_not, hmask, hwritten]
  simp [hk]

/-- The bits of F are the low bits of AF. -/
theorem flag_eq_getLsbD_af (s : State) (f : Flag) : s.flag f = s.af.getLsbD (flagPos f) := by
  cases f <;> simp [State.flag, State.get8, loByte, flagPos]

/-! ## The canonical list of a memory contents (R31) -/

theorem Memory.read_cons_self (m : Memory) (a : Nat) (v : Byte) : Memory.read ((a, v) :: m) a = v := by
  simp [Memory.read]

theorem Memory.read_cons_of_lt {m : Memory} {a c : Nat} {v : Byte} (h : a < c) :
    Memory.read ((a, v) :: m) c = Memory.read m c := by
  simp [Memory.read, show c ≠ a by omega, show ¬ c < a by omega]

/-- Any bytes at the addresses below `n` are those of a canonical memory: write them one after another. -/
theorem exists_wf_read_eq (g : Nat → Byte) (n : Nat) (hn : n ≤ 65536) :
    ∃ m : Memory, m.wf = true ∧ ∀ k < n, Memory.read m k = g k := by
  induction n with
  | zero => exact ⟨[], rfl, by simp⟩
  | succ n ih =>
    obtain ⟨m, hwf, hread⟩ := ih (by omega)
    refine ⟨Memory.write m n (g n), Memory.wf_write hwf (by omega), fun k hk => ?_⟩
    rw [Memory.read_write]
    by_cases h : k = n
    · rw [if_pos h, h]
    · rw [if_neg h, hread k (by omega)]

/-- Two canonical memories that read alike are one list. The first cells must agree, since the list whose first address is
the smaller reads there a byte that no unlisted address has. -/
theorem Memory.eq_of_read_eq {m m' : Memory} {lo : Nat} (hm : Memory.wfFrom lo m = true) (hm' : Memory.wfFrom lo m' = true)
    (h : ∀ a, lo ≤ a → a < 65536 → Memory.read m a = Memory.read m' a) : m = m' := by
  induction m generalizing lo m' with
  | nil =>
    cases m' with
    | nil => rfl
    | cons y rest' =>
      obtain ⟨b, w⟩ := y
      obtain ⟨hlo, hb, hw, -⟩ := Memory.wfFrom_cons.1 hm'
      have hread := h b hlo hb
      rw [Memory.read_cons_self] at hread
      exact absurd hread.symm hw
  | cons x rest ih =>
    obtain ⟨a, v⟩ := x
    obtain ⟨hlo, ha, hv, hrest⟩ := Memory.wfFrom_cons.1 hm
    have hreadA := h a hlo ha
    rw [Memory.read_cons_self] at hreadA
    cases m' with
    | nil => exact absurd hreadA hv
    | cons y rest' =>
      obtain ⟨b, w⟩ := y
      obtain ⟨hlo', hb, hw, hrest'⟩ := Memory.wfFrom_cons.1 hm'
      have hreadB := h b hlo' hb
      rw [Memory.read_cons_self] at hreadB
      rcases Nat.lt_trichotomy a b with hab | rfl | hab
      · rw [Memory.read_eq_unlisted_of_lt hab] at hreadA
        exact absurd hreadA hv
      · rw [Memory.read_cons_self] at hreadA
        have htail : rest = rest' := ih hrest hrest' fun c hc hc' => by
          have hread := h c (by omega) hc'
          rwa [Memory.read_cons_of_lt hc, Memory.read_cons_of_lt hc] at hread
        rw [hreadA, htail]
      · rw [Memory.read_eq_unlisted_of_lt hab] at hreadB
        exact absurd hreadB.symm hw

end Sys2Proof.Machine

namespace Sys2Proof

open Sys2Proof.Machine

/-! ## The parts of the state (R21 to R25, R31, R34) -/

/-- Settles O2: creation copies its arguments, and the flags are read from AF. -/
theorem creationTakesRegistersAndMemory : Obligations.CreationTakesRegistersAndMemory := by
  intro r m
  exact ⟨get16_eq _, fun _ => rfl, flag_eq_getLsbD_af _ .z, flag_eq_getLsbD_af _ .n, flag_eq_getLsbD_af _ .h,
    flag_eq_getLsbD_af _ .c⟩

/-- Settles O4: joining the two bytes of a word gives the word, and each view after a halve write is a law of its own. -/
theorem halvesAreViewsOfTheirRegister : Obligations.HalvesAreViewsOfTheirRegister := by
  intro s
  refine ⟨⟨?_, ?_, ?_, ?_⟩, fun x v => ⟨by simp, fun y hy => by simp [hy], fun r hr => get16_set8 s hr v, mem_set8 s x v⟩⟩
  all_goals exact (joinBytes_hiByte_loByte _).symm

/-- Settles O5: each view after a register write is a law of its own, and the two bytes of `v` join to `v`. -/
theorem registerWriteReplacesAllSixteenBits : Obligations.RegisterWriteReplacesAllSixteenBits := by
  intro s r v
  refine ⟨by simp, fun q hq => by simp [hq], fun x hx => get8_set16 s hx v, mem_set16 s r v, ?_, ?_, ?_, ?_⟩
  all_goals exact joinBytes_hiByte_loByte v

/-- Settles O6: a flag write is a write of F in which one bit differs. -/
theorem flagsAreBitsSevenToFourOfF : Obligations.FlagsAreBitsSevenToFourOfF := by
  intro s
  exact ⟨⟨rfl, rfl, rfl, rfl⟩, fun f b => ⟨by simp, fun k hk h => getLsbD_setFlag_of_ne s b hk h, get8_setFlag_a s f b,
    fun r hr => get16_set8 s (f_notMem_halves hr) _, mem_setFlag s f b⟩⟩

/-- Settles O3: the list is built by writes, and reads tell canonical lists apart. -/
theorem everyMemoryContentsHasOneCanonicalForm : Obligations.EveryMemoryContentsHasOneCanonicalForm := by
  intro f
  obtain ⟨m, hwf, hread⟩ := exists_wf_read_eq (fun k => f (BitVec.ofNat 16 k)) 65536 le_rfl
  have hm : ∀ a : Word, Memory.read m a.toNat = f a := fun a => by simpa using hread a.toNat a.isLt
  refine ⟨m, hwf, hm, fun m' hwf' hm' => Memory.eq_of_read_eq hwf' hwf fun k _ hk => ?_⟩
  have hk' : (BitVec.ofNat 16 k).toNat = k := by simpa using hk
  rw [← hk', hm, hm']

/-- Settles O58: both parts are read off the reset state. -/
theorem resetMeetsTheInvariant : Obligations.ResetMeetsTheInvariant :=
  ⟨rfl, rfl⟩

/-! ## IR and IE (R29, R30, D13) -/

/-- The state with other values in the two inert registers. -/
def withIRIE (ir ie : Word) (s : State) : State := (s.set16 .ir ir).set16 .ie ie

theorem withIRIE_self (s : State) : withIRIE s.ir s.ie s = s := rfl

section
variable (ir ie : Word) (s : State)

@[simp] theorem get8_withIRIE (x : Half) : (withIRIE ir ie s).get8 x = s.get8 x := by cases x <;> rfl

@[simp] theorem flag_withIRIE (f : Flag) : (withIRIE ir ie s).flag f = s.flag f := rfl

theorem set8_withIRIE (x : Half) (v : Byte) : (withIRIE ir ie s).set8 x v = withIRIE ir ie (s.set8 x v) := by
  cases x <;> rfl

@[simp] theorem readTarget_withIRIE (g : Target8) : (withIRIE ir ie s).readTarget g = s.readTarget g := by
  cases g with
  | reg r => exact get8_withIRIE ir ie s r.half
  | atHL => rfl

theorem writeTarget_withIRIE (g : Target8) (v : Byte) :
    (withIRIE ir ie s).writeTarget g v = withIRIE ir ie (s.writeTarget g v) := by
  cases g with
  | reg r => exact set8_withIRIE ir ie s r.half v
  | atHL => rfl

theorem rotFlags_withIRIE (p : FlagProfile) (op : RotOp) (res : Byte) (c : Bool) :
    (withIRIE ir ie s).rotFlags p op res c = withIRIE ir ie (s.rotFlags p op res c) := by
  cases p <;> cases op <;> rfl

theorem rotateUnder_withIRIE (p : FlagProfile) (op : RotOp) (g : Target8) :
    rotateUnder p op g (withIRIE ir ie s) = mapNext (withIRIE ir ie) (rotateUnder p op g s) := by
  simp only [rotateUnder, readTarget_withIRIE, flag_withIRIE, writeTarget_withIRIE, rotFlags_withIRIE]
  rfl

theorem prefixCBUnder_withIRIE (p : FlagProfile) (op2 : Byte) :
    prefixCBUnder p op2 (withIRIE ir ie s) = mapNext (withIRIE ir ie) (prefixCBUnder p op2 s) := by
  unfold prefixCBUnder
  split
  · exact rotateUnder_withIRIE ir ie s p _ _
  · rw [readTarget_withIRIE]
    rfl
  · rfl

theorem execDAA_withIRIE : execDAA (withIRIE ir ie s) = mapNext (withIRIE ir ie) (execDAA s) := by
  simp only [execDAA, get8_withIRIE, flag_withIRIE]
  split <;> rfl

theorem loadHalf_withIRIE (r : R8) (v : Byte) (n : Word) :
    loadHalf r v n (withIRIE ir ie s) = mapNext (withIRIE ir ie) (loadHalf r v n s) := by
  rw [loadHalf, set8_withIRIE]
  rfl

theorem stepTarget_withIRIE (g : Target8) (r : Alu 8) (n : Bool) :
    stepTarget g r n (withIRIE ir ie s) = mapNext (withIRIE ir ie) (stepTarget g r n s) := by
  rw [stepTarget, writeTarget_withIRIE]
  rfl

theorem setZNHC_withIRIE (z n h c : Bool) :
    (withIRIE ir ie s).setZNHC z n h c = withIRIE ir ie (s.setZNHC z n h c) := rfl

theorem accumulate_withIRIE (r : Alu 8) (n : Bool) (len : Word) :
    accumulate r n len (withIRIE ir ie s) = mapNext (withIRIE ir ie) (accumulate r n len s) := by
  rw [accumulate, set8_withIRIE, setZNHC_withIRIE]
  rfl

theorem bitwiseIntoA_withIRIE (res : Byte) (h : Bool) (len : Word) :
    bitwiseIntoA res h len (withIRIE ir ie s) = mapNext (withIRIE ir ie) (bitwiseIntoA res h len s) := by
  rw [bitwiseIntoA, set8_withIRIE, setZNHC_withIRIE]
  rfl

theorem loadAThenStepHL_withIRIE (d : Word) :
    loadAThenStepHL d (withIRIE ir ie s) = mapNext (withIRIE ir ie) (loadAThenStepHL d s) := rfl

theorem storeAThenStepHL_withIRIE (d : Word) :
    storeAThenStepHL d (withIRIE ir ie s) = mapNext (withIRIE ir ie) (storeAThenStepHL d s) := rfl

theorem compareWithA_withIRIE (v : Byte) (len : Word) :
    compareWithA v len (withIRIE ir ie s) = mapNext (withIRIE ir ie) (compareWithA v len s) := by
  simp only [compareWithA, get8_withIRIE, setZNHC_withIRIE]
  rfl

/-- No meaning names IR or IE: its operands are the same in both states, and so is what it writes. -/
theorem exec_withIRIE (i : Instr) : exec i (withIRIE ir ie s) = mapNext (withIRIE ir ie) (exec i s) := by
  cases i with
  | prefixCB op2 => exact prefixCBUnder_withIRIE ir ie s .doc op2
  | daa => exact execDAA_withIRIE ir ie s
  | rlcr | rlcHL | rrcr | rrcHL | rlr | rlHL | rrr | rrHL | slar | slaHL | srar | sraHL | srlr | srlHL | swapr | swapHL =>
    exact rotateUnder_withIRIE ir ie s .doc _ _
  -- the operand is the halve of a selector
  | ldrr => simp only [exec, execLDrr, get8_withIRIE, loadHalf_withIRIE]
  | ldHLr => simp only [exec, execLDHLr, get8_withIRIE]; rfl
  | addr | adcr | subr | sbcr =>
    simp only [exec, execADDr, execADCr, execSUBr, execSBCr, get8_withIRIE, flag_withIRIE, accumulate_withIRIE]
  | cpr => simp only [exec, execCPr, get8_withIRIE, compareWithA_withIRIE]
  | andr | orr | xorr => simp only [exec, execANDr, execORr, execXORr, get8_withIRIE, bitwiseIntoA_withIRIE]
  | incr | decr => simp only [exec, execINCr, execDECr, get8_withIRIE, stepTarget_withIRIE]
  | bitbr => simp only [exec, execBITbr, get8_withIRIE]; rfl
  -- the other members of the same families
  | ldrn | ldrHL | ldaBC | ldaDE | ldAnn | ldhaC | ldhAn => exact loadHalf_withIRIE ir ie s _ _ _
  | addHL | addn | adcHL | adcn | subHL | subn | sbcHL | sbcn => exact accumulate_withIRIE ir ie s _ _ _
  | cpHL | cpn => exact compareWithA_withIRIE ir ie s _ _
  | andHL | andn | orHL | orn | xorHL | xorn => exact bitwiseIntoA_withIRIE ir ie s _ _ _
  | incHL | decHL => exact stepTarget_withIRIE ir ie s .atHL _ _
  | ldaHLm | ldaHLp => exact loadAThenStepHL_withIRIE ir ie s _
  | ldHLam | ldHLap => exact storeAThenStepHL_withIRIE ir ie s _
  -- the operand is the register of a selector
  | ldrrnn rr | pushrr rr | poprr rr | addHLrr rr => cases rr <;> rfl
  | _ => rfl

end

/-- Settles O53: `exec` commutes with a change of IR and IE. With the values they have, the change is none, so the next
state has them too. -/
theorem stepNeitherReadsNorWritesIRAndIE : Obligations.StepNeitherReadsNorWritesIRAndIE := by
  intro s ir ie
  refine ⟨fun t ht => ?_, exec_withIRIE ir ie s (fetch s)⟩
  have hsame := exec_withIRIE s.ir s.ie s (fetch s)
  rw [withIRIE_self, show exec (fetch s) s = .next t from ht] at hsame
  have ht' : t = withIRIE s.ir s.ie t := by simpa [mapNext] using hsame
  rw [ht']
  exact ⟨rfl, rfl⟩

/-! ## The memory after an instruction -/

/-- The memory once the bytes of `w` are stored, in their order. -/
def storeAll (m : Memory) (w : List (Word × Byte)) : Memory := w.foldl (fun m c => Memory.write m c.1.toNat c.2) m

theorem wf_storeAll {m : Memory} (hm : m.wf = true) (w : List (Word × Byte)) : (storeAll m w).wf = true := by
  induction w generalizing m with
  | nil => exact hm
  | cons c w ih => exact ih (Memory.wf_write hm c.1.isLt)

/-- A next state's memory is that of `s` after some byte stores. -/
def StoresFrom (s : State) (o : Host.Outcome State Fault Refusal) : Prop :=
  ∀ t, o = .next t → ∃ w, t.mem = storeAll s.mem w

theorem storesFrom_next {s t : State} (w : List (Word × Byte)) (h : t.mem = storeAll s.mem w) : StoresFrom s (.next t) := by
  intro t' ht
  cases ht
  exact ⟨w, h⟩

section
variable (s : State)

theorem mem_writeTarget (g : Target8) (v : Byte) : ∃ w, (s.writeTarget g v).mem = storeAll s.mem w := by
  cases g with
  | reg r => exact ⟨[], mem_set8 s r.half v⟩
  | atHL => exact ⟨[(s.hl, v)], rfl⟩

@[simp] theorem mem_rotFlags (p : FlagProfile) (op : RotOp) (res : Byte) (c : Bool) :
    (s.rotFlags p op res c).mem = s.mem := by
  cases p <;> cases op <;> rfl

theorem rotateUnder_storesFrom (p : FlagProfile) (op : RotOp) (g : Target8) : StoresFrom s (rotateUnder p op g s) := by
  obtain ⟨w, hw⟩ := mem_writeTarget s g (rotResult op (s.readTarget g) (s.flag .c))
  exact storesFrom_next w (by simpa using hw)

theorem prefixCBUnder_storesFrom (p : FlagProfile) (op2 : Byte) : StoresFrom s (prefixCBUnder p op2 s) := by
  unfold prefixCBUnder
  split
  · exact rotateUnder_storesFrom s p _ _
  · exact storesFrom_next [] rfl
  · exact fun _ ht => nomatch ht

theorem loadHalf_storesFrom (r : R8) (v : Byte) (n : Word) : StoresFrom s (loadHalf r v n s) :=
  storesFrom_next [] (mem_set8 s r.half v)

theorem execDAA_storesFrom : StoresFrom s (execDAA s) := by
  unfold execDAA
  refine storesFrom_next [] ?_
  split <;> simp [storeAll]

/-- Memory changes by byte stores and in no other way (20_memory.md R62, R64). -/
theorem exec_storesFrom (i : Instr) : StoresFrom s (exec i s) := by
  cases i with
  | prefixCB op2 => exact prefixCBUnder_storesFrom s .doc op2
  | rlcr | rlcHL | rrcr | rrcHL | rlr | rlHL | rrr | rrHL | slar | slaHL | srar | sraHL | srlr | srlHL | swapr | swapHL =>
    exact rotateUnder_storesFrom s .doc _ _
  -- the operand is a halve or the byte at HL
  | incr r | decr r => exact storesFrom_next [] (mem_set8 s r.half _)
  | incHL | decHL => exact storesFrom_next [(s.hl, _)] rfl
  -- one byte is stored, or two
  | ldHLr | ldHLn | ldHLam | ldHLap => exact storesFrom_next [(s.hl, _)] rfl
  | ldBCa => exact storesFrom_next [(s.bc, _)] rfl
  | ldDEa => exact storesFrom_next [(s.de, _)] rfl
  | ldnnA nn => exact storesFrom_next [(nn, _)] rfl
  | ldhCa => exact storesFrom_next [(ldhAddr (s.get8 .c), _)] rfl
  | ldhnA n => exact storesFrom_next [(ldhAddr n, _)] rfl
  | ldnnSP nn => exact storesFrom_next [(nn, _), (nn + 1, _)] rfl
  | pushrr rr => exact storesFrom_next [(s.sp - 2, _), (s.sp - 2 + 1, _)] rfl
  -- no byte is stored
  | ldrr dst _ | ldrn dst _ | ldrHL dst => exact loadHalf_storesFrom s dst _ _
  | ldrrnn rr nn => exact storesFrom_next [] (mem_set16 s rr.reg nn)
  | poprr rr => exact storesFrom_next [] (by cases rr <;> rfl)
  | daa => exact execDAA_storesFrom s
  | nop | stop | jre | jrcce | halt | jpnn | jpccnn | jpHL | callnn | callccnn | ret | retcc | reti | rstt | incrr | decrr
  | di | ei | resbr | setbr | illegalD3 | illegalDB | illegalDD | illegalE3 | illegalE4 | illegalEB | illegalEC | illegalED
  | illegalF4 | illegalFC | illegalFD => exact fun _ ht => nomatch ht
  | _ => exact storesFrom_next [] rfl

end

/-- Settles O59: a step's memory is reached by byte stores, each of which keeps the canonical form. -/
theorem stepKeepsMemoryCanonical : Obligations.StepKeepsMemoryCanonical := by
  intro s t hwf ht
  obtain ⟨w, hw⟩ := exec_storesFrom s (fetch s) t ht
  rw [hw]
  exact wf_storeAll hwf w

/-! ## What an instruction may change (R28, R35, R36) -/

/-- All eight halves: a frame that lists them says nothing about a halve. -/
def allHalves : List Half := [.a, .f, .b, .c, .d, .e, .h, .l]

theorem subset_allHalves (l : List Half) : l ⊆ allHalves := by
  intro x _
  cases x <;> decide

/-- SP where the instruction writes it (R28). -/
def spWritten (i : Instr) : List Reg16 := if writesSP i then [.sp] else []

/-- From `s` to `t` no flag, no cell and no independent register changes that the tables do not list for `i`, and bits 3 to
0 of F do not change. -/
def KeepsUnlisted (i : Instr) (s t : State) : Prop := Frame allHalves (flagsWritten i) (spWritten i) (cellsWritten i s) s t

section
variable {i : Instr} {s t : State}

theorem Frame.keepsUnlisted {h : List Half}
    (st : Frame h (flagsWritten i) (spWritten i) (cellsWritten i s) s t) : KeepsUnlisted i s t :=
  st.mono (subset_allHalves h) (List.Subset.refl _) (List.Subset.refl _) (List.Subset.refl _)

/-- Where a shared operation's effect lists what the tables list for `i`. -/
theorem Effect.keepsUnlisted {o : Host.Outcome State Fault Refusal} {n : Word} {h : List Half} {p : State → Prop}
    (e : Effect o s n h (flagsWritten i) (spWritten i) (cellsWritten i s) p) (ho : o = .next t) : KeepsUnlisted i s t := by
  obtain ⟨u, hu, -, st, -⟩ := e
  obtain rfl : u = t := by simpa [hu] using ho
  exact st.keepsUnlisted

end

/-! The 0xCB row, whose operation and operand are fields of `op2`. -/

theorem fieldX_toNat (op2 : Byte) : (fieldX op2).toNat = op2.toNat / 64 := by
  simp [fieldX, BitVec.extractLsb'_toNat, Nat.shiftRight_eq_div_pow]
  omega

theorem fieldY_toNat (op2 : Byte) : (fieldY op2).toNat = op2.toNat / 8 % 8 := by
  simp [fieldY, BitVec.extractLsb'_toNat, Nat.shiftRight_eq_div_pow]

theorem fieldZ_toNat (op2 : Byte) : (fieldZ op2).toNat = op2.toNat % 8 := by
  simp [fieldZ, BitVec.extractLsb'_toNat]

theorem rotOpOfCode_eq_swap_iff (k : BitVec 3) : rotOpOfCode k = .swap ↔ k.toNat = 6 := by
  revert k
  decide

theorem targetOfCode_eq_atHL_iff (k : BitVec 3) : targetOfCode k = .atHL ↔ k.toNat = 6 := by
  revert k
  decide

theorem rotFlagsWritten_doc (op : RotOp) : rotFlagsWritten .doc op = if op = .swap then allFlags else [.c] := by
  cases op <;> rfl

theorem targetCells_eq (g : Target8) (s : State) : targetCells g s = if g = .atHL then [s.hl] else [] := by
  cases g <;> rfl

theorem flagsWritten_prefixCB (op2 : Byte) : flagsWritten (.prefixCB op2) =
    if op2.toNat / 8 = 6 then allFlags else if op2.toNat < 0x40 then [.c] else [.z, .n, .h] := rfl

theorem cellsWritten_prefixCB (op2 : Byte) (s : State) : cellsWritten (.prefixCB op2) s =
    if op2.toNat < 0x40 ∧ op2.toNat % 8 = 6 then [s.hl] else [] := rfl

theorem prefixCBUnder_keepsUnlisted {op2 : Byte} {s t : State} (ht : prefixCBUnder .doc op2 s = .next t) :
    KeepsUnlisted (.prefixCB op2) s t := by
  unfold prefixCBUnder at ht
  split at ht
  next hx =>
    rw [fieldX_toNat] at hx
    have hf : rotFlagsWritten .doc (rotOpOfCode (fieldY op2)) = flagsWritten (.prefixCB op2) := by
      simp only [rotFlagsWritten_doc, rotOpOfCode_eq_swap_iff, fieldY_toNat, flagsWritten_prefixCB,
        show op2.toNat / 8 % 8 = op2.toNat / 8 by omega, show op2.toNat < 0x40 by omega, if_true]
    have hc : targetCells (targetOfCode (fieldZ op2)) s = cellsWritten (.prefixCB op2) s := by
      simp only [targetCells_eq, targetOfCode_eq_atHL_iff, fieldZ_toNat, cellsWritten_prefixCB,
        show op2.toNat < 0x40 by omega, true_and]
    have e := rotateUnder_effect .doc (rotOpOfCode (fieldY op2)) (targetOfCode (fieldZ op2)) s
    rw [hf, hc] at e
    exact Effect.keepsUnlisted e ht
  next hx =>
    rw [fieldX_toNat] at hx
    have hf : flagsWritten (.prefixCB op2) = [.z, .n, .h] := by
      rw [flagsWritten_prefixCB, if_neg (by omega), if_neg (by omega)]
    have hc : cellsWritten (.prefixCB op2) s = [] := by
      rw [cellsWritten_prefixCB, if_neg (by omega)]
    have e := testBit_effect (fieldY op2) (s.readTarget (targetOfCode (fieldZ op2))) s
    rw [← hf, ← hc] at e
    exact Effect.keepsUnlisted e ht
  next => cases ht

theorem execDAA_keepsUnlisted {s t : State} (ht : execDAA s = .next t) : KeepsUnlisted .daa s t := by
  have hc : Frame [] [.c] [] [] s (if daaHigh (s.get8 .a) (s.flag .n) (s.flag .c) then s.setFlag .c true else s) := by
    split
    · exact frame_setFlag s .c true
    · exact frame_self [.c] s
  cases ht
  exact ((((hc.trans (frame_set8 _ (x := .a) (by decide) _)).trans (frame_setFlag _ .z _)).trans
    (frame_setFlag _ .h _)).trans (frame_advance _ 1)).mono (subset_allHalves _) (by decide) (by decide) (by simp)

/-- CCF and SCF write C, then clear N and H. -/
theorem frame_setCThenClearNH (s : State) (c : Bool) :
    Frame allHalves [.n, .h, .c] [] [] s ((((s.setFlag .c c).setFlag .n false).setFlag .h false).advance 1) :=
  ((((frame_setFlag s .c c).trans (frame_setFlag _ .n _)).trans (frame_setFlag _ .h _)).trans (frame_advance _ 1)).mono
    (subset_allHalves _) (by decide) (by decide) (by simp)

theorem execLDrrnn_keepsUnlisted {rr : Rp} {nn : Word} {s t : State} (ht : execLDrrnn rr nn s = .next t) :
    KeepsUnlisted (.ldrrnn rr nn) s t := by
  cases ht
  cases rr with
  | sp => exact Frame.keepsUnlisted ((frame_setSP s nn).trans (frame_advance _ 3))
  | bc => exact Frame.keepsUnlisted ((frame_setPair s .bc nn).trans (frame_advance _ 3))
  | de => exact Frame.keepsUnlisted ((frame_setPair s .de nn).trans (frame_advance _ 3))
  | hl => exact Frame.keepsUnlisted ((frame_setPair s .hl nn).trans (frame_advance _ 3))

theorem execPUSHrr_keepsUnlisted {rr : Rp2} {s t : State} (ht : execPUSHrr rr s = .next t) :
    KeepsUnlisted (.pushrr rr) s t := by
  cases ht
  have hcell : s.sp - 2 + 1 = s.sp - 1 := by bv_omega
  have st := ((frame_setSP s (s.sp - 2)).trans (frame_memWrite2 _ (s.sp - 2) (s.get16 rr.reg))).trans (frame_advance _ 1)
  rw [hcell] at st
  exact Frame.keepsUnlisted st

/-- Every instruction but `POP AF`, which alone writes the low nibble of F, is within the tables. -/
theorem exec_keepsUnlisted {i : Instr} {s t : State} (hi : i ≠ .popAF) (ht : exec i s = .next t) : KeepsUnlisted i s t := by
  cases i with
  | popAF => exact absurd rfl hi
  | prefixCB op2 => exact prefixCBUnder_keepsUnlisted ht
  -- loads and stores
  | ldrr | ldrn | ldrHL | ldaBC | ldaDE | ldAnn | ldhaC | ldhAn =>
    exact Effect.keepsUnlisted (loadHalf_effect _ _ _ s) ht
  | ldHLr | ldHLn | ldBCa | ldDEa | ldnnA | ldhCa | ldhnA => exact Effect.keepsUnlisted (storeByte_effect _ _ _ s) ht
  | ldaHLm | ldaHLp => exact Effect.keepsUnlisted (loadAThenStepHL_effect _ s) ht
  | ldHLam | ldHLap => exact Effect.keepsUnlisted (storeAThenStepHL_effect _ s) ht
  | ldrrnn => exact execLDrrnn_keepsUnlisted ht
  | ldnnSP nn =>
    cases ht
    exact Frame.keepsUnlisted ((frame_memWrite2 s nn _).trans (frame_advance _ 3))
  | ldSPHL =>
    cases ht
    exact Frame.keepsUnlisted ((frame_setSP s _).trans (frame_advance _ 1))
  | ldHLSPpe e => exact Effect.keepsUnlisted (ldHLSPpe_effect e s) ht
  -- the stack
  | pushrr => exact execPUSHrr_keepsUnlisted ht
  | poprr rr => exact Effect.keepsUnlisted (popInto_effect rr _ s) ht
  -- arithmetic, bitwise, flags
  | addr | addHL | addn | adcr | adcHL | adcn | subr | subHL | subn | sbcr | sbcHL | sbcn =>
    exact Effect.keepsUnlisted (accumulate_effect _ _ _ s) ht
  | cpr | cpHL | cpn => exact Effect.keepsUnlisted (compareWithA_effect _ _ s) ht
  | incr r | decr r => exact Effect.keepsUnlisted (stepTarget_effect (.reg r) _ _ s) ht
  | incHL | decHL => exact Effect.keepsUnlisted (stepTarget_effect .atHL _ _ s) ht
  | addHLrr rr => exact Effect.keepsUnlisted (addHLrrUnder_effect .doc rr s) ht
  | addSPpe e => exact Effect.keepsUnlisted (addSPpe_effect e s) ht
  | andr | andHL | andn | orr | orHL | orn | xorr | xorHL | xorn =>
    exact Effect.keepsUnlisted (bitwiseIntoA_effect _ _ _ s) ht
  | daa => exact execDAA_keepsUnlisted ht
  | ccf | scf =>
    cases ht
    exact Frame.keepsUnlisted (frame_setCThenClearNH s _)
  | cpl =>
    cases ht
    exact Frame.keepsUnlisted ((((frame_set8 s (x := .a) (by decide) _).trans (frame_setFlag _ .n _)).trans
      (frame_setFlag _ .h _)).trans (frame_advance _ 1))
  -- rotates, shifts and bit tests
  | rlca | rrca | rla | rra => exact Effect.keepsUnlisted (rotateAccUnder_effect .doc _ s) ht
  | rlcr r | rrcr r | rlr r | rrr r | slar r | srar r | srlr r | swapr r =>
    exact Effect.keepsUnlisted (rotateUnder_effect .doc _ (.reg r) s) ht
  | rlcHL | rrcHL | rlHL | rrHL | slaHL | sraHL | srlHL | swapHL =>
    exact Effect.keepsUnlisted (rotateUnder_effect .doc _ .atHL s) ht
  | bitbr | bitbHL => exact Effect.keepsUnlisted (testBit_effect _ _ s) ht
  -- the rows that stop
  | _ => cases ht

/-- Settles O54: `POP AF` lists every flag, and every other instruction is within the tables. -/
theorem unlistedFlagsAreUntouched : Obligations.UnlistedFlagsAreUntouched := by
  intro i s t f ht hf
  have hi : i ≠ .popAF := by
    rintro rfl
    cases f <;> exact hf (by decide)
  exact (exec_keepsUnlisted hi ht).flags f hf

/-- Settles O56: `POP AF` is one of the five, and every other instruction is within the tables. -/
theorem spIsWrittenByItsFiveOnly : Obligations.SPIsWrittenByItsFiveOnly := by
  intro i s t ht hsp
  have hi : i ≠ .popAF := by
    rintro rfl
    cases hsp
  exact (exec_keepsUnlisted hi ht).sp (by simp [spWritten, hsp])

/-! ## Bits 3 to 0 of F (R26, R36) -/

/-- `POP AF` masks the nibble of the word it pops (R183, D9). -/
theorem fLow_of_popAF {s t : State} (ht : exec .popAF s = .next t) : t.fLow = 0 := by
  cases ht
  have hmask : (loByte 0xFFF0).extractLsb' 0 4 = 0#4 := by decide
  change (loByte (s.memRead2 s.sp &&& 0xFFF0)).extractLsb' 0 4 = 0
  rw [loByte_and, BitVec.extractLsb'_and, hmask, BitVec.and_zero]
  rfl

/-- Settles O57: `POP AF` masks the word it pops, and every frame keeps the nibble. -/
theorem lowNibbleOfFIsWrittenByPopAFOnly : Obligations.LowNibbleOfFIsWrittenByPopAFOnly := by
  intro i s t ht
  by_cases hi : i = .popAF
  · subst hi
    rw [if_pos rfl]
    exact fLow_of_popAF ht
  · rw [if_neg hi]
    exact (exec_keepsUnlisted hi ht).fLow

theorem flowZero_of_exec {i : Instr} {s t : State} (hs : FLowZero s) (ht : exec i s = .next t) : FLowZero t := by
  have hlow : t.fLow = if i = .popAF then 0 else s.fLow := lowNibbleOfFIsWrittenByPopAFOnly i s t ht
  rw [show s.fLow = 0 from hs, ite_self] at hlow
  exact hlow

/-- `PUSH rr` stores the low byte at the new SP (R181). -/
theorem memRead1_of_pushrr {rr : Rp2} {s t : State} (ht : exec (.pushrr rr) s = .next t) :
    t.memRead1 (s.sp - 2) = loByte (s.get16 rr.reg) := by
  cases ht
  rw [memRead1_advance, memRead1_memWrite2, if_neg (word_succ_ne _).symm, if_pos rfl]

theorem fLow_toNat (s : State) : s.fLow.toNat = (s.get8 .f).toNat % 16 := by
  simp [State.fLow, BitVec.extractLsb'_toNat]

/-- Settles O60: no instruction sets one of the bits, and the byte that `PUSH AF` stores is F. -/
theorem stepKeepsLowNibbleZero : Obligations.StepKeepsLowNibbleZero := by
  intro s t hs ht
  refine ⟨flowZero_of_exec hs ht, fun hpush => ?_⟩
  rw [step_eq_exec_of_fetch_eq hpush] at ht
  have hF : t.memRead1 (s.sp - 2) = s.get8 .f := memRead1_of_pushrr ht
  rw [hF, ← fLow_toNat, show s.fLow = 0 from hs]
  rfl

end Sys2Proof

/-! Proofs for 20_memory.md: byte and word accesses (R61 to R66), what an instruction stores (R67), and that the next fetch
sees it (R72). -/

namespace Sys2Proof.Machine

/-! ## A word of memory read (R63) -/

theorem memRead2_toNat (s : State) (a : Word) :
    (s.memRead2 a).toNat = (s.memRead1 (a + 1)).toNat * 256 + (s.memRead1 a).toNat :=
  joinBytes_toNat _ _

/-- A word read gives back the word stored at its address (R63, R64). -/
@[simp] theorem memRead2_memWrite2 (s : State) (a v : Word) : (s.memWrite2 a v).memRead2 a = v := by
  simp [State.memRead2]

/-- Writes to two different cells can be done in either order (R66). -/
theorem memRead1_memWrite1_comm (s : State) {a b : Word} (h : a ≠ b) (v w : Byte) (c : Word) :
    ((s.memWrite1 a v).memWrite1 b w).memRead1 c = ((s.memWrite1 b w).memWrite1 a v).memRead1 c := by
  simp only [memRead1_memWrite1]
  by_cases hc : c = a
  · subst hc
    rw [if_neg h, if_pos rfl, if_pos rfl]
  · rw [if_neg hc, if_neg hc]

/-! ## The results of the rotates and shifts as the bit-vector operations of R240 -/

theorem rotResult_rlc (v : Byte) (c : Bool) : rotResult .rlc v c = v.rotateLeft 1 := by
  change v <<< 1 ||| bitByte (v.getLsbD 7) = v.rotateLeft 1
  revert v
  decide

theorem rotResult_rrc (v : Byte) (c : Bool) : rotResult .rrc v c = v.rotateRight 1 := by
  change v >>> 1 ||| bitByte (v.getLsbD 0) <<< 7 = v.rotateRight 1
  revert v
  decide

theorem rotResult_sra (v : Byte) (c : Bool) : rotResult .sra v c = v.sshiftRight 1 := by
  change v >>> 1 ||| v &&& 0x80 = v.sshiftRight 1
  revert v
  decide

theorem rotResult_swap (v : Byte) (c : Bool) : rotResult .swap v c = v.rotateLeft 4 := by
  change (v &&& 0x0F) <<< 4 ||| v >>> 4 = v.rotateLeft 4
  revert v
  decide

end Sys2Proof.Machine

namespace Sys2Proof

open Sys2Proof.Machine

/-! ## Byte and word accesses (R61 to R66) -/

/-- Settles O7: a write is seen at its own cell only, and no register is a memory cell. -/
theorem byteWriteReplacesOneCell : Obligations.ByteWriteReplacesOneCell := by
  intro s a v
  exact ⟨by simp, fun c hc => by simp [hc], get16_memWrite1 s a v⟩

/-- Settles O8: the bytes of the joined word, and `0xFFFF + 1 = 0`. -/
theorem wordReadIsLittleEndianAndWraps : Obligations.WordReadIsLittleEndianAndWraps := by
  intro s
  exact ⟨memRead2_toNat s, memRead2_toNat s 0xFFFF⟩

/-- Settles O9: a word write is two byte writes to different cells, so their order cannot be observed. -/
theorem wordWriteIsTwoByteWrites : Obligations.WordWriteIsTwoByteWrites := by
  intro s a v
  exact ⟨word_succ_ne a, by simp [loByte], by simp [hiByte],
    fun c hc hc' => by rw [memRead1_memWrite2, if_neg hc', if_neg hc], memRead2_memWrite2 s a v,
    memRead1_memWrite1_comm s (word_succ_ne a) _ _⟩

/-! ## What an instruction leaves unchanged (R67) -/

/-- Settles O55: `POP AF` writes registers only, and every other instruction is within the tables. -/
theorem unlistedCellsAreUntouched : Obligations.UnlistedCellsAreUntouched := by
  intro i s t a ht ha
  by_cases hi : i = .popAF
  · subst hi
    cases ht
    rfl
  · exact (exec_keepsUnlisted hi ht).cells a ha

/-! ## What an instruction stores (R67) -/

/-- What is known of the next state, where an effect's outcome is that state. -/
theorem Effect.post_of_next {o : Host.Outcome State Fault Refusal} {s t : State} {n : Word} {h : List Half} {f : List Flag}
    {r : List Reg16} {c : List Word} {p : State → Prop} (e : Effect o s n h f r c p) (ho : o = .next t) : p t := by
  obtain ⟨u, hu, -, -, hp⟩ := e
  obtain rfl : u = t := by simpa [hu] using ho
  exact hp

/-- `t` holds the bytes of `w` in their cells. -/
def HoldsBytes (w : List (Word × Byte)) (t : State) : Prop := ∀ c ∈ w, t.memRead1 c.1 = c.2

theorem holdsBytes_nil (t : State) : HoldsBytes [] t := fun _ hc => nomatch hc

theorem holdsBytes_cons {a : Word} {v : Byte} {w : List (Word × Byte)} {t : State} :
    HoldsBytes ((a, v) :: w) t ↔ t.memRead1 a = v ∧ HoldsBytes w t :=
  List.forall_mem_cons

theorem holdsBytes_singleton {a : Word} {v : Byte} {t : State} (h : t.memRead1 a = v) : HoldsBytes [(a, v)] t :=
  holdsBytes_cons.2 ⟨h, holdsBytes_nil t⟩

/-- A state that holds the bytes of `w`, and is as `s` in every other cell, is `s` with them stored. -/
theorem memRead1_eq_byteAfter {w : List (Word × Byte)} {s t : State} {a : Word} (hin : HoldsBytes w t)
    (hout : a ∉ w.map Prod.fst → t.memRead1 a = s.memRead1 a) : t.memRead1 a = byteAfter w s a := by
  induction w with
  | nil => exact hout (by simp)
  | cons c w ih =>
    obtain ⟨b, v⟩ := c
    obtain ⟨hb, hw⟩ := holdsBytes_cons.1 hin
    rw [byteAfter_cons]
    by_cases hab : a = b
    · rw [if_pos hab, hab, hb]
    · rw [if_neg hab]
      exact ih hw fun ha => hout (by simpa [hab] using ha)

/-- The table of stored bytes and the access table name the same cells. -/
theorem map_fst_stores {i : Instr} (hi : i.status = .core) (s : State) : (stores i s).map Prod.fst = cellsWritten i s := by
  cases i with
  | prefixCB => cases hi
  | _ => rfl

/-- After a word write the two cells hold its bytes (R64). -/
theorem holdsBytes_memWrite2 (s : State) (a v : Word) :
    HoldsBytes [(a, loByte v), (a + 1, hiByte v)] (s.memWrite2 a v) :=
  holdsBytes_cons.2 ⟨by simp, holdsBytes_singleton (by simp)⟩

/-- A rotate or shift of the byte at HL stores its result there. -/
theorem holdsBytes_of_rotateUnder_atHL {op : RotOp} {s t : State} {v : Byte}
    (ht : rotateUnder .doc op .atHL s = .next t) (hv : rotResult op (s.memRead1 s.hl) (s.flag .c) = v) :
    HoldsBytes [(s.hl, v)] t :=
  holdsBytes_singleton (((rotateUnder_effect .doc op .atHL s).post_of_next ht).1.trans hv)

/-- The next state holds the bytes that the rules say the instruction stores. -/
theorem holdsBytes_stores_of_exec {i : Instr} {s t : State} (ht : exec i s = .next t) : HoldsBytes (stores i s) t := by
  cases i with
  | ldHLr | ldHLn | ldBCa | ldDEa | ldnnA | ldhCa | ldhnA =>
    exact holdsBytes_singleton ((storeByte_effect _ _ _ s).post_of_next ht)
  | ldHLam | ldHLap => exact holdsBytes_singleton ((storeAThenStepHL_effect _ s).post_of_next ht).1
  | ldnnSP nn =>
    cases ht
    exact holdsBytes_memWrite2 s nn s.sp
  | pushrr rr =>
    cases ht
    have h := holdsBytes_memWrite2 (s.set16 .sp (s.sp - 2)) (s.sp - 2) (s.get16 rr.reg)
    rwa [show s.sp - 2 + 1 = s.sp - 1 by bv_omega] at h
  | incHL | decHL => exact holdsBytes_singleton ((stepTarget_effect .atHL _ _ s).post_of_next ht).1
  | rlcHL => exact holdsBytes_of_rotateUnder_atHL ht (rotResult_rlc _ _)
  | rrcHL => exact holdsBytes_of_rotateUnder_atHL ht (rotResult_rrc _ _)
  | sraHL => exact holdsBytes_of_rotateUnder_atHL ht (rotResult_sra _ _)
  | swapHL => exact holdsBytes_of_rotateUnder_atHL ht (rotResult_swap _ _)
  | rlHL | rrHL | slaHL | srlHL => exact holdsBytes_of_rotateUnder_atHL ht rfl
  -- the rows that store nothing
  | _ => exact holdsBytes_nil t

/-- Memory after an instruction of the block is memory before it but for the stored bytes. -/
theorem memRead1_of_exec {i : Instr} {s t : State} (hi : i.status = .core) (ht : exec i s = .next t) (a : Word) :
    t.memRead1 a = byteAfter (stores i s) s a := by
  refine memRead1_eq_byteAfter (holdsBytes_stores_of_exec ht) fun ha => unlistedCellsAreUntouched i s t a ht ?_
  rwa [map_fst_stores hi] at ha

/-! ## Every instruction of the block completes (10_state.md R27) -/

/-- `exec i s` answers a next state, whose PC has advanced by the length of the encoding. -/
def Completes (i : Instr) (s : State) : Prop :=
  ∃ t, exec i s = .next t ∧ t.pc = s.pc + BitVec.ofNat 16 (encode i).length

/-- Where a shared operation's effect advances PC by the length of the encoding. -/
theorem Effect.completes {i : Instr} {s : State} {h : List Half} {f : List Flag} {r : List Reg16} {c : List Word}
    {p : State → Prop} (e : Effect (exec i s) s (BitVec.ofNat 16 (encode i).length) h f r c p) : Completes i s := by
  obtain ⟨t, ht, hpc, -, -⟩ := e
  exact ⟨t, ht, hpc⟩

theorem daa_completes (s : State) : Completes .daa s := by
  refine ⟨_, rfl, ?_⟩
  rw [pc_advance]
  split <;> rfl

theorem completes_of_core {i : Instr} (hi : i.status = .core) (s : State) : Completes i s := by
  cases i with
  -- loads and stores
  | ldrr | ldrn | ldrHL | ldaBC | ldaDE | ldAnn | ldhaC | ldhAn => exact Effect.completes (loadHalf_effect _ _ _ s)
  | ldHLr | ldHLn | ldBCa | ldDEa | ldnnA | ldhCa | ldhnA => exact Effect.completes (storeByte_effect _ _ _ s)
  | ldaHLm | ldaHLp => exact Effect.completes (loadAThenStepHL_effect _ s)
  | ldHLam | ldHLap => exact Effect.completes (storeAThenStepHL_effect _ s)
  | ldrrnn rr => exact ⟨_, rfl, by cases rr <;> rfl⟩
  | ldHLSPpe e => exact Effect.completes (ldHLSPpe_effect e s)
  -- the stack
  | poprr rr => exact Effect.completes (popInto_effect rr _ s)
  -- arithmetic and bitwise
  | addr | addHL | addn | adcr | adcHL | adcn | subr | subHL | subn | sbcr | sbcHL | sbcn =>
    exact Effect.completes (accumulate_effect _ _ _ s)
  | cpr | cpHL | cpn => exact Effect.completes (compareWithA_effect _ _ s)
  | addHLrr rr => exact Effect.completes (addHLrrUnder_effect .doc rr s)
  | addSPpe e => exact Effect.completes (addSPpe_effect e s)
  | incr | incHL | decr | decHL => exact Effect.completes (stepTarget_effect _ _ _ s)
  | andr | andHL | andn | orr | orHL | orn | xorr | xorHL | xorn => exact Effect.completes (bitwiseIntoA_effect _ _ _ s)
  | daa => exact daa_completes s
  -- rotates, shifts and bit tests
  | bitbr | bitbHL => exact Effect.completes (testBit_effect _ _ s)
  | rlca | rrca | rla | rra => exact Effect.completes (rotateAccUnder_effect .doc _ s)
  | rlcr | rlcHL | rrcr | rrcHL | rlr | rlHL | rrr | rrHL | slar | slaHL | srar | sraHL | srlr | srlHL | swapr | swapHL =>
    exact Effect.completes (rotateUnder_effect .doc _ _ s)
  -- no shared operation
  | ldnnSP | ldSPHL | pushrr | popAF | ccf | scf | cpl => exact ⟨_, rfl, rfl⟩
  -- the rows that stop, and the prefix row
  | _ => cases hi

/-! ## The next fetch sees the stores (R72, R306) -/

theorem wf_of_core {i : Instr} (hi : i.status = .core) : i.wf = true := by
  simp [Instr.wf, hi]

/-- Settles O20: a step is `exec` of the bytes it fetched, and the next one decodes the memory that `exec` left. -/
theorem storeIsSeenByTheNextFetch : Obligations.StoreIsSeenByTheNextFetch := by
  intro s i hi hbytes
  obtain ⟨t, ht, hpc⟩ := completes_of_core hi s
  have hstep : step s = exec i s := step_eq_exec_of_fetch_eq (fetch_eq_of_encoding_at_pc (wf_of_core hi) hbytes)
  have hmem : t.memRead1 = byteAfter (stores i s) s := funext (memRead1_of_exec hi ht)
  refine ⟨map_fst_stores hi s, t, hstep.trans ht, ht, hpc, congrFun hmem, fun j rest hdec => ?_⟩
  rw [← hmem] at hdec
  exact step_eq_exec_of_fetch_eq (fetch_eq_of_decode_eq_ok hdec)

end Sys2Proof

/-! Proofs for 30_encoding.md: the decoder and the encoder are inverse (R97, R98, R105), byte 0 alone gives the length (R90,
R91, R102), the prefix row (R96, R100), and the worked examples (R106). -/

namespace Sys2Proof

open Sys2Proof.Machine

/-! ## The bytes of each row of the opcode table (R97, R98) -/

/-- `i` is an instruction, not the bare prefix, and these are its bytes. -/
def HasBytes (i : Instr) (bytes : List Byte) : Prop := i.wf = true ∧ encode i = bytes

/-- The bytes that an instruction beginning with `b0` has, of the three that are read (R91). -/
def bytesRead (b0 b1 b2 : Byte) : List Byte := [b0, b1, b2].take (lengthOf b0)

theorem length_bytesRead (b0 b1 b2 : Byte) : (bytesRead b0 b1 b2).length = lengthOf b0 := by
  obtain h | h | h := lengthOf_cases b0 <;> simp [bytesRead, h]

theorem bytesRead_of_one {b0 b1 b2 : Byte} (h : lengthOf b0 = 1) : bytesRead b0 b1 b2 = [b0] := by
  simp [bytesRead, h]

theorem bytesRead_of_two {b0 b1 b2 : Byte} (h : lengthOf b0 = 2) : bytesRead b0 b1 b2 = [b0, b1] := by
  simp [bytesRead, h]

/-- The byte with the given fields (R92). -/
def byteOfFields (x : BitVec 2) (y z : BitVec 3) : Byte := x ++ y ++ z

theorem byteOfFields_fields (b : Byte) : byteOfFields (fieldX b) (fieldY b) (fieldZ b) = b := by
  revert b
  decide

theorem fieldX_byteOfFields (x : BitVec 2) (y z : BitVec 3) : fieldX (byteOfFields x y z) = x := by
  revert x y z
  decide

/-- The eight values of a field of three bits. -/
theorem octal_cases (k : BitVec 3) : k = 0 ∨ k = 1 ∨ k = 2 ∨ k = 3 ∨ k = 4 ∨ k = 5 ∨ k = 6 ∨ k = 7 := by
  revert k
  decide

theorem hasBytes_decodeCB (op2 : Byte) : HasBytes (decodeCB op2) [0xCB, op2] := by
  unfold HasBytes
  revert op2
  decide

/-- The loads between halves: no row has an operand outside byte 0, so the table is finite. -/
theorem hasBytes_decodeX1 (y z : BitVec 3) : HasBytes (decodeX1 (byteOfFields 1 y z)) [byteOfFields 1 y z] := by
  unfold HasBytes
  revert y z
  decide

/-- The accumulator operations; see `hasBytes_decodeX1`. -/
theorem hasBytes_decodeX2 (y z : BitVec 3) : HasBytes (decodeX2 (byteOfFields 2 y z)) [byteOfFields 2 y z] := by
  unfold HasBytes
  revert y z
  decide

theorem lengthOf_x1 (y z : BitVec 3) : lengthOf (byteOfFields 1 y z) = 1 := by
  revert y z
  decide

theorem lengthOf_x2 (y z : BitVec 3) : lengthOf (byteOfFields 2 y z) = 1 := by
  revert y z
  decide

/-- A group with immediates: the bytes after byte 0 are those of a word, so that each row is a computation. -/
theorem hasBytes_decodeX0 (y z : BitVec 3) (nn : Word) :
    HasBytes (decodeX0 (byteOfFields 0 y z) (loByte nn) nn) (bytesRead (byteOfFields 0 y z) (loByte nn) (hiByte nn)) := by
  obtain rfl | rfl | rfl | rfl | rfl | rfl | rfl | rfl := octal_cases z
  all_goals
    obtain rfl | rfl | rfl | rfl | rfl | rfl | rfl | rfl := octal_cases y
    all_goals exact ⟨rfl, rfl⟩

/-- As `hasBytes_decodeX0`, but for 0xCB, whose second byte selects the row (R96). -/
theorem hasBytes_decodeX3 (y z : BitVec 3) (nn : Word) :
    HasBytes (decodeX3 (byteOfFields 3 y z) (loByte nn) nn) (bytesRead (byteOfFields 3 y z) (loByte nn) (hiByte nn)) := by
  obtain rfl | rfl | rfl | rfl | rfl | rfl | rfl | rfl := octal_cases z
  -- z = 3: JP nn, the prefix byte, four illegal bytes, DI, EI
  case inr.inr.inr.inl =>
    obtain rfl | rfl | rfl | rfl | rfl | rfl | rfl | rfl := octal_cases y
    case inr.inl => exact hasBytes_decodeCB (loByte nn)
    all_goals exact ⟨rfl, rfl⟩
  all_goals
    obtain rfl | rfl | rfl | rfl | rfl | rfl | rfl | rfl := octal_cases y
    all_goals exact ⟨rfl, rfl⟩

/-- What three bytes decode to is an instruction whose bytes are the first of them (R91, R101). -/
theorem hasBytes_decode3 (b0 b1 b2 : Byte) : HasBytes (decode3 b0 b1 b2) (bytesRead b0 b1 b2) := by
  rw [← byteOfFields_fields b0]
  generalize fieldX b0 = x, fieldY b0 = y, fieldZ b0 = z
  rw [decode3, fieldX_byteOfFields]
  obtain rfl | rfl | rfl | rfl := cc_cases x
  · simpa using hasBytes_decodeX0 y z (joinBytes b2 b1)
  · rw [bytesRead_of_one (lengthOf_x1 y z)]
    exact hasBytes_decodeX1 y z
  · rw [bytesRead_of_one (lengthOf_x2 y z)]
    exact hasBytes_decodeX2 y z
  · simpa using hasBytes_decodeX3 y z (joinBytes b2 b1)

/-! ## The encoder, then the decoder (R105) -/

/-- The first byte of an encoding gives its length (R90, R102). -/
theorem length_encode_of_wf {i : Instr} (hwf : i.wf = true) : (encode i).length = lengthOf ((encode i).getD 0 0) := by
  have hi := decodesFromItsBytes_of_wf i hwf ((encode i).getD · 0) fun _ _ => rfl
  have he := (hasBytes_decode3 ((encode i).getD 0 0) ((encode i).getD 1 0) ((encode i).getD 2 0)).2
  rw [hi] at he
  rw [he, length_bytesRead, ← he]

/-- Where there are enough bytes the decoder answers; the converse of `decode_eq_ok`. -/
theorem decode_of_lengthOf_le {b0 : Byte} {r : List Byte} (h : lengthOf b0 ≤ r.length + 1) :
    decode (b0 :: r) = .ok (decode3 b0 (r.getD 0 0) (r.getD 1 0), r.drop (lengthOf b0 - 1)) :=
  if_neg (Nat.not_lt.2 h)

/-- Settles O14: the first byte says how many of the bytes to take, and they decode to `i`, whatever follows. -/
theorem decodeInvertsEncode : Obligations.DecodeInvertsEncode := by
  intro i hwf rest
  have hlen := length_encode_of_wf hwf
  have hi := decodesFromItsBytes_of_wf i hwf ((encode i ++ rest).getD · 0) fun k hk => List.getD_append _ _ _ _ hk
  cases he : encode i with
  | nil =>
    rw [he] at hlen
    exact absurd hlen (by decide)
  | cons b0 tail =>
    rw [he] at hlen hi
    replace hlen : lengthOf b0 = tail.length + 1 := hlen.symm
    replace hi : decode3 b0 ((tail ++ rest).getD 0 0) ((tail ++ rest).getD 1 0) = i := hi
    rw [List.cons_append, decode_of_lengthOf_le (by simp [hlen]), hi, hlen, Nat.add_sub_cancel, List.drop_left]

/-- Two instructions are encoded by the same bytes only if they are the same. -/
theorem eq_of_encode_eq {i j : Instr} (hi : i.wf = true) (hj : j.wf = true) (h : encode i = encode j) : i = j := by
  have hdi := decodeInvertsEncode i hi []
  rw [h, decodeInvertsEncode j hj []] at hdi
  injection hdi with hpair
  exact (congrArg Prod.fst hpair).symm

/-! ## The decoder, then the encoder (R98, R101, R102) -/

/-- The bytes read and the bytes left over are the bytes there were. -/
theorem bytesRead_append_drop {b0 : Byte} {r : List Byte} (h : lengthOf b0 ≤ r.length + 1) :
    bytesRead b0 (r.getD 0 0) (r.getD 1 0) ++ r.drop (lengthOf b0 - 1) = b0 :: r := by
  obtain hl | hl | hl := lengthOf_cases b0 <;> rw [hl] at h
  · simp [bytesRead, hl]
  · match r, h with
    | b1 :: r, _ => simp [bytesRead, hl]
  · match r, h with
    | b1 :: b2 :: r, _ => simp [bytesRead, hl]

/-- Settles O15: the decoder takes the bytes that the first one says, and they are the encoding of what it answers. -/
theorem encodeInvertsDecode : Obligations.EncodeInvertsDecode := by
  intro bs rest i h
  cases bs with
  | nil => cases h
  | cons b0 r =>
    obtain ⟨hlen, rfl, rfl⟩ := decode_eq_ok h
    obtain ⟨hwf, he⟩ := hasBytes_decode3 b0 (r.getD 0 0) (r.getD 1 0)
    exact ⟨hwf, he.symm ▸ bytesRead_append_drop hlen⟩

/-- A byte that is not among the bytes read does not matter (R91). -/
theorem decode3_eq_of_bytesRead_eq {b0 b1 b2 c1 c2 : Byte} (h : bytesRead b0 c1 c2 = bytesRead b0 b1 b2) :
    decode3 b0 c1 c2 = decode3 b0 b1 b2 := by
  obtain ⟨hwfc, hec⟩ := hasBytes_decode3 b0 c1 c2
  obtain ⟨hwfb, heb⟩ := hasBytes_decode3 b0 b1 b2
  exact eq_of_encode_eq hwfc hwfb (by rw [hec, heb, h])

/-- Settles O16: the encoding of what is decoded is the bytes read, as many as byte 0 says. -/
theorem decodeIsTotalAndReadsItsLength : Obligations.DecodeIsTotalAndReadsItsLength := by
  intro b0 b1 b2
  obtain ⟨hwf, he⟩ := hasBytes_decode3 b0 b1 b2
  refine ⟨hwf, by rw [he, length_bytesRead], lengthOf_cases b0, fun h c1 c2 => ?_, fun h c2 => ?_⟩
  · exact decode3_eq_of_bytesRead_eq (by rw [bytesRead_of_one h, bytesRead_of_one h])
  · exact decode3_eq_of_bytesRead_eq (by rw [bytesRead_of_two h, bytesRead_of_two h])

/-! ## The prefix row (R96, R100) -/

/-- A row with an r8 field runs one operation, on the operand that the field selects (R93). -/
theorem exec_byR8 {reg : R8 → Instr} {mem : Instr} {s : State} (f : Target8 → Host.Outcome State Fault Refusal)
    (hreg : ∀ r, exec (reg r) s = f (.reg r)) (hmem : exec mem s = f .atHL) (k : BitVec 3) :
    exec (byR8 k reg mem) s = f (targetOfCode k) := by
  unfold byR8 targetOfCode
  cases r8OfCode k with
  | some r => exact hreg r
  | none => exact hmem

theorem exec_prefixCB (op2 : Byte) (s : State) : exec (.prefixCB op2) s = exec (decodeCB op2) s := by
  have hbytes := (hasBytes_decodeCB op2).2
  change prefixCBUnder .doc op2 s = _
  unfold prefixCBUnder
  unfold decodeCB at hbytes ⊢
  obtain hx | hx | hx | hx := cc_cases (fieldX op2) <;> rw [hx] at hbytes ⊢
  · generalize fieldY op2 = y
    obtain rfl | rfl | rfl | rfl | rfl | rfl | rfl | rfl := octal_cases y
    all_goals exact (exec_byR8 (rotateUnder .doc _ · s) (fun _ => rfl) rfl _).symm
  · exact (exec_byR8 (fun g => testBit _ (s.readTarget g) s) (fun _ => rfl) rfl _).symm
  · exact congrArg (fun bytes => notInCoreCB (bytes.getD 1 0)) hbytes.symm
  · exact congrArg (fun bytes => notInCoreCB (bytes.getD 1 0)) hbytes.symm

/-- Below 0x80 `op2` selects a rotate, a shift, a swap or a bit test. -/
theorem status_decodeCB_of_lt {op2 : Byte} (h : op2.toNat < 0x80) : (decodeCB op2).status = .core := by
  revert op2
  decide

/-- From 0x80 on `op2` selects RES or SET, which are not in the block (R100). -/
theorem prefixCBUnder_of_not_lt {op2 : Byte} (h : ¬ op2.toNat < 0x80) (p : FlagProfile) (s : State) :
    prefixCBUnder p op2 s = notInCoreCB op2 := by
  have hx : fieldX op2 = 2 ∨ fieldX op2 = 3 := by
    revert op2
    decide
  unfold prefixCBUnder
  obtain hx | hx := hx <;> rw [hx] <;> rfl

/-- Settles O49: below 0x80 the selected row is a row of the block, which completes; from 0x80 on it is refused. -/
theorem prefixRowIsTheSelectedRow : Obligations.PrefixRowIsTheSelectedRow := by
  intro s op2
  have hbytes := (hasBytes_decodeCB op2).2
  refine ⟨exec_prefixCB op2 s, hbytes, ?_⟩
  split
  next hlow =>
    obtain ⟨t, ht, hpc⟩ := completes_of_core (status_decodeCB_of_lt hlow) s
    rw [hbytes] at hpc
    exact ⟨t, (exec_prefixCB op2 s).trans ht, hpc⟩
  next hhigh => exact prefixCBUnder_of_not_lt hhigh .doc s

/-! ## The worked examples (R106) -/

/-- Settles O17: each of the nine lists is the encoding of its instruction, and -2 is the byte 0xFE. -/
theorem workedDecodeExamples : Obligations.WorkedDecodeExamples := by
  unfold Obligations.WorkedDecodeExamples
  rw [show BitVec.ofInt 8 (-2) = (0xFE : Byte) by decide]
  exact ⟨decodeInvertsEncode (.ldrr .a .b) rfl [], decodeInvertsEncode (.ldHLn 0x5A) rfl [],
    decodeInvertsEncode (.ldrrnn .sp 0xFFFE) rfl [], decodeInvertsEncode (.bitbr 7 .h) rfl [],
    decodeInvertsEncode .swapHL rfl [], decodeInvertsEncode (.ldHLSPpe 0xFE) rfl [],
    decodeInvertsEncode (.jpnn 0) rfl [], decodeInvertsEncode .illegalDD rfl [], decodeInvertsEncode (.resbr 0 7) rfl []⟩

end Sys2Proof

/-! Proofs for 40_alu_primitives.md: the primitives in exact numbers (R130 to R133) and the carry-in compositions (R136). -/

namespace Sys2Proof.Machine

/-! ## Carries of numbers -/

/-- The top bit of a number of `k + 1` bits says whether it exceeds `k` bits. -/
theorem testBit_of_lt_two_pow_succ {n k : Nat} (h : n < 2 ^ (k + 1)) : n.testBit k = decide (2 ^ k ≤ n) := by
  rw [Bool.eq_iff_iff, decide_eq_true_iff]
  exact ⟨Nat.ge_two_pow_of_testBit, fun hk => Nat.testBit_of_two_pow_le_and_two_pow_add_one_gt hk h⟩

/-- Adding `b` and then `c` overflows in one of the two stages exactly when the whole sum overflows. -/
theorem carry_or_carry (m a b c : Nat) :
    (decide (a + b > m) || decide ((a + b) % (m + 1) + c > m)) = decide (a + b + c > m) := by
  rw [← Bool.decide_or, decide_eq_decide]
  by_cases h : a + b > m
  · omega
  · rw [Nat.mod_eq_of_lt (by omega)]
    omega

/-- Subtracting `b` and then `c` borrows in one of the two stages exactly when the whole difference borrows. -/
theorem borrow_or_borrow {m a b c : Nat} (ha : a < m) :
    (decide (a < b) || decide ((a + m - b) % m < c)) = decide (a < b + c) := by
  rw [← Bool.decide_or, decide_eq_decide]
  by_cases h : a < b
  · omega
  · rw [show a + m - b = a - b + m by omega, Nat.add_mod_right, Nat.mod_eq_of_lt (by omega)]
    omega

/-! ## Addition and subtraction (R130 to R133) -/

@[simp] theorem add8_result_toNat (a b : Byte) : (add8 a b).result.toNat = (a.toNat + b.toNat) % 256 :=
  BitVec.toNat_ofNat _ _

@[simp] theorem add8_carry (a b : Byte) : (add8 a b).carry = decide (a.toNat + b.toNat > 255) := rfl

@[simp] theorem add8_half (a b : Byte) : (add8 a b).half = decide (a.toNat % 16 + b.toNat % 16 > 15) := by
  simp only [add8, toNat_low4]

theorem add8_comm (a b : Byte) : add8 a b = add8 b a := by
  unfold add8
  rw [Nat.add_comm a.toNat, Nat.add_comm (a &&& 0x0F).toNat]

@[simp] theorem sub8_result_toNat (a b : Byte) : (sub8 a b).result.toNat = (a.toNat + 256 - b.toNat) % 256 := by
  change (a - b).toNat = _
  bv_omega

@[simp] theorem sub8_carry (a b : Byte) : (sub8 a b).carry = decide (a.toNat < b.toNat) := rfl

@[simp] theorem sub8_half (a b : Byte) : (sub8 a b).half = decide (a.toNat % 16 < b.toNat % 16) := by
  simp only [sub8, toNat_low4]

theorem sub8_self (a : Byte) : sub8 a a = { result := 0, carry := false, half := false } := by
  simp [sub8]

theorem sub8_zero (a : Byte) : sub8 a 0 = { result := a, carry := false, half := false } := by
  simp [sub8]

@[simp] theorem add16_result_toNat (a b : Word) : (add16 a b).result.toNat = (a.toNat + b.toNat) % 65536 :=
  BitVec.toNat_ofNat _ _

@[simp] theorem add16_carry (a b : Word) : (add16 a b).carry = decide (a.toNat + b.toNat > 65535) := rfl

@[simp] theorem add16_half (a b : Word) : (add16 a b).half = decide (a.toNat % 4096 + b.toNat % 4096 > 4095) := by
  simp only [add16, toNat_low12]

@[simp] theorem sub16_result_toNat (a b : Word) : (sub16 a b).result.toNat = (a.toNat + 65536 - b.toNat) % 65536 := by
  change (a - b).toNat = _
  bv_omega

@[simp] theorem sub16_carry (a b : Word) : (sub16 a b).carry = decide (a.toNat < b.toNat) := rfl

@[simp] theorem sub16_half (a b : Word) : (sub16 a b).half = decide (a.toNat % 4096 < b.toNat % 4096) := by
  simp only [sub16, toNat_low12]

/-! ## The carry-in compositions (R136)

The second stage reads the result of the first modulo 256 for the carry, and modulo 16 for the half-carry. -/

theorem add8_result_low4 (a b : Byte) : (add8 a b).result.toNat % 16 = (a.toNat % 16 + b.toNat % 16) % 16 := by
  rw [add8_result_toNat]
  omega

theorem sub8_result_low4 (a b : Byte) : (sub8 a b).result.toNat % 16 = (a.toNat % 16 + 16 - b.toNat % 16) % 16 := by
  rw [sub8_result_toNat]
  omega

theorem bitByte_low4 (c : Bool) : (bitByte c).toNat % 16 = c.toNat := by
  cases c <;> rfl

@[simp] theorem adc8_result_toNat (a b : Byte) (cin : Bool) :
    (adc8 a b cin).result.toNat = (a.toNat + b.toNat + cin.toNat) % 256 := by
  change (add8 (add8 a b).result (bitByte cin)).result.toNat = _
  rw [add8_result_toNat, add8_result_toNat, bitByte_toNat, Nat.mod_add_mod]

@[simp] theorem adc8_carry (a b : Byte) (cin : Bool) :
    (adc8 a b cin).carry = decide (a.toNat + b.toNat + cin.toNat > 255) := by
  change ((add8 a b).carry || (add8 (add8 a b).result (bitByte cin)).carry) = _
  rw [add8_carry, add8_carry, add8_result_toNat, bitByte_toNat]
  exact carry_or_carry 255 _ _ _

@[simp] theorem adc8_half (a b : Byte) (cin : Bool) :
    (adc8 a b cin).half = decide (a.toNat % 16 + b.toNat % 16 + cin.toNat > 15) := by
  change ((add8 a b).half || (add8 (add8 a b).result (bitByte cin)).half) = _
  rw [add8_half, add8_half, add8_result_low4, bitByte_low4]
  exact carry_or_carry 15 _ _ _

@[simp] theorem sbc8_result_toNat (a b : Byte) (cin : Bool) :
    (sbc8 a b cin).result.toNat = (a.toNat + 512 - (b.toNat + cin.toNat)) % 256 := by
  change (sub8 (sub8 a b).result (bitByte cin)).result.toNat = _
  rw [sub8_result_toNat, sub8_result_toNat, bitByte_toNat]
  have hb := b.isLt
  have hc := cin.toNat_le
  omega

@[simp] theorem sbc8_carry (a b : Byte) (cin : Bool) :
    (sbc8 a b cin).carry = decide (a.toNat < b.toNat + cin.toNat) := by
  change ((sub8 a b).carry || (sub8 (sub8 a b).result (bitByte cin)).carry) = _
  rw [sub8_carry, sub8_carry, sub8_result_toNat, bitByte_toNat]
  exact borrow_or_borrow a.isLt

@[simp] theorem sbc8_half (a b : Byte) (cin : Bool) :
    (sbc8 a b cin).half = decide (a.toNat % 16 < b.toNat % 16 + cin.toNat) := by
  change ((sub8 a b).half || (sub8 (sub8 a b).result (bitByte cin)).half) = _
  rw [sub8_half, sub8_half, sub8_result_low4, bitByte_low4]
  exact borrow_or_borrow (Nat.mod_lt _ (by decide))

end Sys2Proof.Machine

namespace Sys2Proof

open Sys2Proof.Machine

/-! ## The ALU primitives -/

/-- Settles O10: the sums have 9 and 5 bits, so each carry is the top bit of its sum. -/
theorem add8IsExactAddition : Obligations.Add8IsExactAddition := by
  intro a b
  have hcarry : (a.toNat + b.toNat).testBit 8 = decide (a.toNat + b.toNat > 255) :=
    testBit_of_lt_two_pow_succ (Nat.add_lt_add a.isLt b.isLt)
  have hhalf : (a.toNat % 16 + b.toNat % 16).testBit 4 = decide (a.toNat % 16 + b.toNat % 16 > 15) :=
    testBit_of_lt_two_pow_succ (by omega)
  exact ⟨add8_result_toNat a b, add8_carry a b, add8_half a b, (add8_carry a b).trans hcarry.symm,
    (add8_half a b).trans hhalf.symm, add8_comm a b⟩

/-- Settles O11: the difference modulo 256 is `a - b`, plus 256 where it borrows. -/
theorem sub8IsExactSubtraction : Obligations.Sub8IsExactSubtraction := by
  intro a b
  refine ⟨?_, sub8_carry a b, sub8_half a b, sub8_self a, sub8_zero a⟩
  rw [sub8_result_toNat]
  have ha := a.isLt
  split <;> omega

/-- Settles O12. -/
theorem sixteenBitPrimitivesAreExact : Obligations.SixteenBitPrimitivesAreExact := fun a b =>
  ⟨add16_result_toNat a b, add16_carry a b, add16_half a b, sub16_result_toNat a b, sub16_carry a b, sub16_half a b⟩

/-- Settles O13: the two stages are the definition; one of them carries exactly when the whole sum does. -/
theorem carryInCompositionHasClosedForms : Obligations.CarryInCompositionHasClosedForms := fun a b cin =>
  ⟨rfl, rfl, rfl, adc8_result_toNat a b cin, adc8_carry a b cin, adc8_half a b cin,
    rfl, rfl, rfl, sbc8_result_toNat a b cin, sbc8_carry a b cin, sbc8_half a b cin⟩

end Sys2Proof

/-! Proofs for 41_load.md: what the load family moves, and that nothing else changes (R140 to R163), with ADD SP,e of
43_arithmetic.md (R211), which shares its sum and its flags with LD HL,SP+e. -/

namespace Sys2Proof.Machine

/-! ## Addresses and sums -/

/-- A page and a byte in it: the sum never wraps (R152 to R155, D8). -/
theorem ldhAddr_toNat (v : Byte) : (ldhAddr v).toNat = 0xFF00 + v.toNat := by
  have hv := v.isLt
  simp [ldhAddr, zext16]
  omega

/-- The half-carry of an addition to a low byte sees the low nibble of the word (R163). -/
theorem add8_loByte_half (w : Word) (e : Byte) :
    (add8 (loByte w) e).half = decide (w.toNat % 16 + e.toNat % 16 > 15) := by
  rw [add8_half, loByte_toNat, Nat.mod_mod_of_dvd _ (by decide)]

theorem add8_loByte_carry (w : Word) (e : Byte) :
    (add8 (loByte w) e).carry = decide (w.toNat % 256 + e.toNat > 255) := by
  rw [add8_carry, loByte_toNat]

end Sys2Proof.Machine

namespace Sys2Proof

open Sys2Proof.Machine

/-! ## The bytes of an instruction beside its effect -/

/-- An instruction of the block is read back from its bytes (30_encoding.md R105). -/
theorem encodes_of_core {i : Instr} {bytes : List Byte} (hi : i.status = .core) (hb : encode i = bytes) :
    Encodes i bytes :=
  ⟨hb, hb ▸ decodeInvertsEncode i (wf_of_core hi)⟩

/-- Where the effect of an instruction of the block advances PC by the number of its bytes. -/
theorem does_of_effect {i : Instr} {bytes : List Byte} {s : State} {h : List Half} {f : List Flag} {r : List Reg16}
    {c : List Word} {p : State → Prop} (hi : i.status = .core) (hb : encode i = bytes)
    (e : Effect (exec i s) s (BitVec.ofNat 16 bytes.length) h f r c p) : Does i bytes s h f r c p :=
  ⟨encodes_of_core hi hb, e⟩

/-! ## The 16-bit loads (R160 to R162) -/

/-- Writing the register an rp selector names: its halves, or SP. -/
theorem frame_setRp (s : State) (rr : Rp) (v : Word) : Frame rr.reg.halves [] [rr.reg] [] s (s.set16 rr.reg v) := by
  have pair (q : Pair) (l : List Reg16) : Frame q.reg.halves [] l [] s (s.set16 q.reg v) :=
    (frame_setPair s q v).mono (List.Subset.refl _) (List.Subset.refl _) (List.nil_subset l) (List.Subset.refl _)
  cases rr with
  | bc => exact pair .bc _
  | de => exact pair .de _
  | hl => exact pair .hl _
  | sp => exact frame_setSP s v

@[simp] theorem pc_setRp (s : State) (rr : Rp) (v : Word) : (s.set16 rr.reg v).pc = s.pc := by
  cases rr <;> rfl

@[simp] theorem get16_advance_rp (s : State) (n : Word) (rr : Rp) : (s.advance n).get16 rr.reg = s.get16 rr.reg := by
  cases rr <;> rfl

theorem execLDrrnn_effect (rr : Rp) (nn : Word) (s : State) :
    Effect (execLDrrnn rr nn s) s 3 rr.reg.halves [] [rr.reg] [] fun t => t.get16 rr.reg = nn :=
  ⟨_, rfl, by simp, (frame_setRp s rr nn).trans (frame_advance _ 3) |>.mono (by simp) (by simp) (by simp) (by simp),
    by simp⟩

theorem execLDnnSP_effect (nn : Word) (s : State) :
    Effect (execLDnnSP nn s) s 3 [] [] [] [nn, nn + 1] fun t =>
      t.memRead1 nn = loByte s.sp ∧ t.memRead1 (nn + 1) = hiByte s.sp :=
  ⟨_, rfl, by simp, (frame_memWrite2 s nn s.sp).trans (frame_advance _ 3), by simp, by simp⟩

theorem execLDSPHL_effect (s : State) : Effect (execLDSPHL s) s 1 [] [] [.sp] [] fun t => t.sp = s.hl :=
  ⟨_, rfl, rfl, (frame_setSP s s.hl).trans (frame_advance _ 1), rfl⟩

/-! ## The load family -/

/-- Settles O22: each form is the one load of a halve, with its own source. -/
theorem loadIntoHalve : Obligations.LoadIntoHalve := fun s _ =>
  ⟨fun _ => does_of_effect rfl rfl (loadHalf_effect _ _ _ s), fun _ => does_of_effect rfl rfl (loadHalf_effect _ _ _ s),
    does_of_effect rfl rfl (loadHalf_effect _ _ _ s)⟩

/-- Settles O23: each form is the one store of a byte, at HL, with its own source. -/
theorem storeThroughHL : Obligations.StoreThroughHL := fun s =>
  ⟨fun _ => does_of_effect rfl rfl (storeByte_effect _ _ _ s), fun _ => does_of_effect rfl rfl (storeByte_effect _ _ _ s)⟩

/-- Settles O24: a load of A or a store of A at each of the three addresses. -/
theorem accumulatorThroughPairOrAddress : Obligations.AccumulatorThroughPairOrAddress := fun s _ =>
  ⟨does_of_effect rfl rfl (loadHalf_effect .a _ _ s), does_of_effect rfl rfl (loadHalf_effect .a _ _ s),
    does_of_effect rfl rfl (storeByte_effect _ _ _ s), does_of_effect rfl rfl (storeByte_effect _ _ _ s),
    does_of_effect rfl rfl (loadHalf_effect .a _ _ s), does_of_effect rfl rfl (storeByte_effect _ _ _ s)⟩

/-- Settles O25: a load of A or a store of A in the page from 0xFF00 on. -/
theorem highPageLoadsAndStores : Obligations.HighPageLoadsAndStores :=
  ⟨ldhAddr_toNat, fun s _ =>
    ⟨does_of_effect rfl rfl (loadHalf_effect .a _ _ s), does_of_effect rfl rfl (storeByte_effect _ _ _ s),
      does_of_effect rfl rfl (loadHalf_effect .a _ _ s), does_of_effect rfl rfl (storeByte_effect _ _ _ s)⟩⟩

/-- Settles O26: a byte moves through the old HL, to which the word 1 or the word -1 is then added. -/
theorem loadsAndStoresThatStepHL : Obligations.LoadsAndStoresThatStepHL := by
  intro s
  have hdec : (s.hl + -1).toNat = (s.hl.toNat + 65535) % 65536 := BitVec.toNat_add s.hl (-1)
  have hinc : (s.hl + 1).toNat = (s.hl.toNat + 1) % 65536 := BitVec.toNat_add s.hl 1
  rw [← hdec, ← hinc]
  refine ⟨does_of_effect rfl rfl ((loadAThenStepHL_effect _ s).weaken ?_),
    does_of_effect rfl rfl ((loadAThenStepHL_effect _ s).weaken ?_),
    does_of_effect rfl rfl ((storeAThenStepHL_effect _ s).weaken ?_),
    does_of_effect rfl rfl ((storeAThenStepHL_effect _ s).weaken ?_)⟩
  all_goals exact fun t ⟨hv, hhl⟩ => ⟨hv, congrArg BitVec.toNat hhl⟩

/-- Settles O27: the three 16-bit loads, each with the frame of its destination. -/
theorem sixteenBitLoads : Obligations.SixteenBitLoads := fun s nn =>
  ⟨fun rr => does_of_effect rfl rfl (execLDrrnn_effect rr nn s), does_of_effect rfl rfl (execLDnnSP_effect nn s),
    does_of_effect rfl rfl (execLDSPHL_effect s)⟩

/-- Settles O28: the two forms share the sum and the flags, and differ in the register that takes the sum. The sign
extension of a byte is the word of its number in two's complement, by definition. -/
theorem signedOffsetFromSP : Obligations.SignedOffsetFromSP := by
  intro s e
  rw [← add8_loByte_half, ← add8_loByte_carry]
  exact ⟨does_of_effect rfl rfl (ldHLSPpe_effect e s), does_of_effect rfl rfl (addSPpe_effect e s)⟩

end Sys2Proof

/-! Proofs for 42_stack.md: what PUSH stores and POP loads, and that nothing else changes (R181 to R183), and that a POP after
a PUSH of the same register restores it (R180). -/

namespace Sys2Proof

open Sys2Proof.Machine

/-! ## The cells below SP, and addresses -/

/-- The upper of the two cells below SP. -/
theorem sub_two_add_one (w : Word) : w - 2 + 1 = w - 1 := by bv_omega

theorem add_one_add_one (w : Word) : w + 1 + 1 = w + 2 := BitVec.add_assoc w 1 1

/-- A frame that lists two cells keeps every other cell. -/
theorem Frame.memRead1_of_ne {s t : State} {h : List Half} {f : List Flag} {r : List Reg16} {a b c : Word}
    (st : Frame h f r [b, c] s t) (hb : a ≠ b) (hc : a ≠ c) : t.memRead1 a = s.memRead1 a :=
  st.cells a (by simp [hb, hc])

/-! ## A register and its halves -/

section
variable {s t : State}

theorem get8_eq_of_get16_eq {r : Reg16} {x : Half} (hx : x ∈ r.halves) (h : t.get16 r = s.get16 r) :
    t.get8 x = s.get8 x := by
  cases r <;> cases x <;> simp_all [Reg16.halves, State.get16, State.get8]

/-- A frame that lists no halve keeps BC, DE and HL whole. -/
theorem Frame.get16_pair {f : List Flag} {r : List Reg16} {c : List Word} (st : Frame [] f r c s t) (p : Pair) :
    t.get16 p.reg = s.get16 p.reg := by
  have half (x : Half) (hx : x ≠ .f) : t.get8 x = s.get8 x := st.halves x hx List.not_mem_nil
  cases p with
  | bc => exact word_ext (half .b (by decide)) (half .c (by decide))
  | de => exact word_ext (half .d (by decide)) (half .e (by decide))
  | hl => exact word_ext (half .h (by decide)) (half .l (by decide))

/-- A register and SP that have their old values again need not be listed. -/
theorem Frame.of_restored {q : Reg16} {f : List Flag} {r : List Reg16} {c : List Word} (st : Frame q.halves f r c s t)
    (hq : t.get16 q = s.get16 q) (hsp : t.sp = s.sp) : Frame [] f [] c s t :=
  { st with
    halves := fun x hx _ => by
      by_cases hm : x ∈ q.halves
      · exact get8_eq_of_get16_eq hm hq
      · exact st.halves x hx hm
    sp := fun _ => hsp }

end

/-! ## PUSH (R181) -/

theorem execPUSHrr_effect (rr : Rp2) (s : State) :
    Effect (execPUSHrr rr s) s 1 [] [] [.sp] [s.sp - 2, s.sp - 1] fun t =>
      t.sp = s.sp - 2 ∧ t.memRead1 (s.sp - 2) = loByte (s.get16 rr.reg) ∧
        t.memRead1 (s.sp - 1) = hiByte (s.get16 rr.reg) := by
  have hframe := ((frame_setSP s (s.sp - 2)).trans (frame_memWrite2 _ (s.sp - 2) (s.get16 rr.reg))).trans (frame_advance _ 1)
  rw [sub_two_add_one] at hframe
  obtain ⟨hlo, hhi⟩ := holdsBytes_cons.1 (holdsBytes_stores_of_exec (i := .pushrr rr) (s := s) rfl)
  exact ⟨_, rfl, rfl, hframe, rfl, hlo, (holdsBytes_cons.1 hhi).1⟩

/-- Settles O29: moving SP down by 2 is adding 65534 mod 65536; the rest is the effect of PUSH. -/
theorem pushStoresBelowSP : Obligations.PushStoresBelowSP := fun s rr =>
  does_of_effect rfl rfl ((execPUSHrr_effect rr s).weaken fun t ⟨hsp, hbytes⟩ => ⟨by rw [hsp]; bv_omega, hbytes⟩)

/-! ## POP (R182, R183) -/

/-- Settles O30: the popped word has the byte at SP + 1 above the byte at SP. -/
theorem popLoadsPairFromSP : Obligations.PopLoadsPairFromSP := fun s rr =>
  does_of_effect rfl rfl ((popInto_effect rr (s.memRead2 s.sp) s).weaken fun t ⟨hreg, hsp⟩ =>
    ⟨hreg, by rw [hsp]; exact BitVec.toNat_add s.sp 2⟩)

section
variable {s t : State}

theorem get8_a_of_popAF (ht : exec .popAF s = .next t) : t.get8 .a = s.memRead1 (s.sp + 1) := by
  cases ht
  have hmask : hiByte 0xFFF0 = BitVec.allOnes 8 := by decide
  change hiByte (s.memRead2 s.sp &&& 0xFFF0) = _
  rw [hiByte_and, hmask, BitVec.and_allOnes]
  exact hiByte_joinBytes _ _

theorem get8_f_of_popAF (ht : exec .popAF s = .next t) : t.get8 .f = s.memRead1 s.sp &&& 0xF0 := by
  cases ht
  have hmask : loByte 0xFFF0 = 0xF0 := by decide
  change loByte (s.memRead2 s.sp &&& 0xFFF0) = _
  rw [loByte_and, hmask]
  exact congrArg (· &&& 0xF0) (loByte_joinBytes _ _)

/-- The mask keeps the four bits that are flags. -/
theorem flag_of_popAF (ht : exec .popAF s = .next t) (f : Flag) : t.flag f = (s.memRead1 s.sp).getLsbD (flagPos f) := by
  have hmask : (0xF0 : Byte).getLsbD (flagPos f) = true := by cases f <;> decide
  rw [State.flag, get8_f_of_popAF ht, BitVec.getLsbD_and, hmask, Bool.and_true]

end

/-- Settles O31: AF takes the masked word, byte by byte; every other register and memory are untouched by definition. -/
theorem popAFMasksTheLowNibble : Obligations.PopAFMasksTheLowNibble := by
  intro s
  refine ⟨encodes_of_core rfl rfl, ?_⟩
  obtain ⟨t, ht⟩ : ∃ t, exec .popAF s = .next t := ⟨_, rfl⟩
  refine ⟨t, ht, ?pc, ?sp, get8_a_of_popAF ht, get8_f_of_popAF ht, flag_of_popAF ht .z, flag_of_popAF ht .n,
    flag_of_popAF ht .h, flag_of_popAF ht .c, fLow_of_popAF ht, ?rest⟩
  all_goals cases ht
  case pc => rfl
  case sp => exact BitVec.toNat_add s.sp 2
  case rest => exact ⟨rfl, rfl, rfl, rfl, rfl, fun _ => rfl⟩

/-! ## PUSH, then POP (R180) -/

/-- A step of an instruction of one byte, which stands at PC. -/
theorem step_eq_exec_of_byte_at_pc {s : State} {i : Instr} {b : Byte} (hwf : i.wf = true) (hb : encode i = [b])
    (h : s.memRead1 s.pc = b) : step s = exec i s :=
  step_eq_exec_of_fetch_eq (fetch_eq_of_encoding_at_pc hwf (by simpa [hb] using h))

/-- The register of a POP as the operand of a PUSH. -/
def Pair.rp2 (p : Pair) : Rp2 :=
  match p with
  | .bc => .bc
  | .de => .de
  | .hl => .hl

theorem code_rp2 (p : Pair) : p.rp2.code = p.code := by cases p <;> rfl

theorem reg_rp2 (p : Pair) : p.rp2.reg = p.reg := by cases p <;> rfl

/-- A PUSH whose cells are not the byte after it: the instruction `i` of that byte is next, and finds the register at SP. -/
theorem step_push_effect {s : State} {rr : Rp2} {i : Instr} {b : Byte} (hwf : i.wf = true) (hb : encode i = [b])
    (hpush : s.memRead1 s.pc = 0xC5 + 16 * rr.code) (hnext : s.memRead1 (s.pc + 1) = b)
    (hlo : s.pc + 1 ≠ s.sp - 2) (hhi : s.pc + 1 ≠ s.sp - 1) :
    Effect (step s) s 1 [] [] [.sp] [s.sp - 2, s.sp - 1] fun t =>
      step t = exec i t ∧ t.sp = s.sp - 2 ∧ t.memRead1 t.sp = loByte (s.get16 rr.reg) ∧
        t.memRead1 (t.sp + 1) = hiByte (s.get16 rr.reg) := by
  obtain ⟨t, ht, hpc, hframe, hsp, hlow, hhigh⟩ := execPUSHrr_effect rr s
  have hstep : step s = exec (.pushrr rr) s := step_eq_exec_of_byte_at_pc rfl rfl hpush
  have hkept : t.memRead1 t.pc = b := by rw [hpc, hframe.memRead1_of_ne hlo hhi, hnext]
  refine ⟨t, hstep.trans ht, hpc, hframe, step_eq_exec_of_byte_at_pc hwf hb hkept, hsp, ?_⟩
  rw [hsp, sub_two_add_one]
  exact ⟨hlow, hhigh⟩

/-- Settles O21: PUSH leaves the POP's byte and puts the register at SP, from where POP takes it back. -/
theorem pushThenPopRestores : Obligations.PushThenPopRestores := by
  constructor
  · intro p s hpush hpop hlo hhi
    rw [← code_rp2] at hpush
    obtain ⟨t, hst, htpc, hpushFrame, hpopStep, htsp, hlow, hhigh⟩ :=
      step_push_effect (i := .poprr p) rfl rfl hpush hpop hlo hhi
    obtain ⟨u, htu, hupc, hpopFrame, hreg, husp⟩ := popInto_effect p (t.memRead2 t.sp) t
    have hpc : u.pc = s.pc + 2 := by rw [hupc, htpc, add_one_add_one]
    have hsp : u.sp = s.sp := by rw [husp, htsp, BitVec.sub_add_cancel]
    have hword : u.get16 p.reg = s.get16 p.reg := by
      rw [hreg, State.memRead2, hlow, hhigh, joinBytes_hiByte_loByte, reg_rp2]
    exact ⟨t, u, hst, hpopStep.trans htu, hpc, hsp, hword, (hpushFrame.trans hpopFrame).of_restored hword hsp⟩
  · intro s hpush hpop hlo hhi
    obtain ⟨t, hst, htpc, hframe, hpopStep, htsp, hlow, hhigh⟩ :=
      step_push_effect (rr := .af) (i := .popAF) rfl rfl hpush hpop hlo hhi
    obtain ⟨-, u, htu, hupc, husp, ha, -, -, -, -, -, hfLow, hbc, hde, hhl, hir, hie, hmem⟩ := popAFMasksTheLowNibble t
    have hpc : u.pc = s.pc + 2 := by rw [hupc, htpc, add_one_add_one]
    have hsp : u.sp = s.sp := by
      rw [htsp] at husp
      bv_omega
    have hflag (f : Flag) : u.flag f = s.flag f := by
      rw [flag_of_popAF htu, hlow]
      rfl
    exact ⟨t, u, hst, hpopStep.trans htu, hpc, hsp, ha.trans hhigh, hflag, hfLow, hbc.trans (hframe.get16_pair .bc),
      hde.trans (hframe.get16_pair .de), hhl.trans (hframe.get16_pair .hl), hir.trans hframe.ir, hie.trans hframe.ie,
      fun a hlo' hhi' => (hmem a).trans (hframe.memRead1_of_ne hlo' hhi')⟩

end Sys2Proof

/-! Proofs for 43_arithmetic.md: the 8-bit sums, differences, comparisons, increments and decrements, and ADD HL,rr (R190 to
R210). ADD and SUB are ADC and SBC without an incoming carry. -/

namespace Sys2Proof.Machine

/-! ## The results of the family in exact numbers -/

/-- Z, which is read off the result, in exact numbers (R190). -/
theorem beq_zero_eq_decide {w : Nat} (v : BitVec w) : (v == 0) = decide (v.toNat = 0) := by
  rw [Bool.eq_iff_iff, beq_iff_eq, decide_eq_true_iff, ← BitVec.toNat_inj]
  rfl

theorem add8_zero (a : Byte) : add8 a 0 = { result := a, carry := false, half := false } := by
  simpa [add8, Nat.and_le_right] using Nat.le_of_lt_succ a.isLt

theorem adc8_false (a b : Byte) : adc8 a b false = add8 a b := by
  have second : add8 (add8 a b).result (bitByte false) = _ := add8_zero _
  simp only [adc8, second, Bool.or_false]

theorem sbc8_false (a b : Byte) : sbc8 a b false = sub8 a b := by
  have second : sub8 (sub8 a b).result (bitByte false) = _ := sub8_zero _
  simp only [sbc8, second, Bool.or_false]

/-- Only 255 plus 1 is 0 (R206). -/
theorem add8_one_beq_zero (v : Byte) : ((add8 v 1).result == 0) = decide (v.toNat = 255) := by
  rw [beq_zero_eq_decide, add8_result_toNat, decide_eq_decide]
  change (v.toNat + 1) % 256 = 0 ↔ _
  omega

theorem add8_one_half (v : Byte) : (add8 v 1).half = decide (v.toNat % 16 = 15) := by
  rw [add8_half, decide_eq_decide]
  change v.toNat % 16 + 1 > 15 ↔ _
  omega

/-- Only 1 minus 1 is 0 (R208). -/
theorem sub8_one_beq_zero (v : Byte) : ((sub8 v 1).result == 0) = decide (v.toNat = 1) := by
  rw [beq_zero_eq_decide, sub8_result_toNat, decide_eq_decide]
  change (v.toNat + 255) % 256 = 0 ↔ _
  omega

theorem sub8_one_half (v : Byte) : (sub8 v 1).half = decide (v.toNat % 16 = 0) := by
  rw [sub8_half, decide_eq_decide]
  exact Nat.lt_one_iff

end Sys2Proof.Machine

namespace Sys2Proof

open Sys2Proof.Machine

/-! ## The three forms of an accumulator operation (R190, 44_bitwise.md R220) -/

/-- `i` is an instruction of the block with these bytes, and `o` is its outcome in `s`. -/
def RunsAs (i : Instr) (bytes : List Byte) (s : State) (o : Host.Outcome State Fault Refusal) : Prop :=
  i.status = .core ∧ encode i = bytes ∧ exec i s = o

/-- The effect of an operation is that of each instruction which runs it. -/
theorem RunsAs.does {i : Instr} {bytes : List Byte} {s : State} {o : Host.Outcome State Fault Refusal} {h : List Half}
    {f : List Flag} {r : List Reg16} {c : List Word} {p : State → Prop} (hi : RunsAs i bytes s o)
    (e : Effect o s (BitVec.ofNat 16 bytes.length) h f r c p) : Does i bytes s h f r c p := by
  obtain ⟨hcore, hbytes, rfl⟩ := hi
  exact does_of_effect hcore hbytes e

/-- Three forms that run one operation `run` of the second operand and the length have its effect. -/
theorem threeForms_of_effect {reg : R8 → Instr} {mem : Instr} {imm : Byte → Instr} {op opImm : Byte} {s : State}
    {halves : List Half} {post : Byte → State → Prop} {run : Byte → Word → State → Host.Outcome State Fault Refusal}
    (effect : ∀ v n, Effect (run v n s) s n halves allFlags [] [] (post v))
    (hreg : ∀ r, RunsAs (reg r) [op + r.code] s (run (s.get8 r.half) 1 s))
    (hmem : RunsAs mem [op + 6] s (run (s.memRead1 s.hl) 1 s))
    (himm : ∀ n, RunsAs (imm n) [opImm, n] s (run n 2 s)) : ThreeForms reg mem imm op opImm s halves post :=
  ⟨fun r => (hreg r).does (effect _ 1), hmem.does (effect _ 1), fun n => (himm n).does (effect n 2)⟩

/-! ## ADD, ADC, SUB, SBC and CP (R191 to R205) -/

theorem accumulate_adc8_effect (v : Byte) (cin : Bool) (n : Word) (s : State) :
    Effect (accumulate (adc8 (s.get8 .a) v cin) false n s) s n [.a] allFlags [] [] fun t =>
      SumInA (s.get8 .a).toNat v.toNat cin.toNat t := by
  refine (accumulate_effect _ _ n s).weaken fun t ⟨ha, hz, hn, hh, hc⟩ => ⟨?_, ?_, hn, ?_, ?_⟩
  · rw [ha, adc8_result_toNat]
  · rw [hz, beq_zero_eq_decide, adc8_result_toNat]
  · rw [hh, adc8_half]
  · rw [hc, adc8_carry]

/-- The flags of a subtraction, whether its result is kept or not. -/
theorem diffFlags_of_sbc8 {a v : Byte} {bin : Bool} {t : State} (hz : t.flag .z = ((sbc8 a v bin).result == 0))
    (hn : t.flag .n = true) (hh : t.flag .h = (sbc8 a v bin).half) (hc : t.flag .c = (sbc8 a v bin).carry) :
    DiffFlags a.toNat v.toNat bin.toNat t := by
  refine ⟨?_, hn, ?_, ?_⟩
  · rw [hz, beq_zero_eq_decide, sbc8_result_toNat]
  · rw [hh, sbc8_half]
  · rw [hc, sbc8_carry]

theorem accumulate_sbc8_effect (v : Byte) (bin : Bool) (n : Word) (s : State) :
    Effect (accumulate (sbc8 (s.get8 .a) v bin) true n s) s n [.a] allFlags [] [] fun t =>
      DiffInA (s.get8 .a).toNat v.toNat bin.toNat t :=
  (accumulate_effect _ _ n s).weaken fun t ⟨ha, hz, hn, hh, hc⟩ =>
    ⟨by rw [ha, sbc8_result_toNat], diffFlags_of_sbc8 hz hn hh hc⟩

/-- A difference of bytes is 0 only where they are equal (R203). -/
theorem flag_z_iff_of_diffFlags {a v : Byte} {t : State} (h : DiffFlags a.toNat v.toNat 0 t) :
    t.flag .z = true ↔ a = v := by
  obtain ⟨hz, -⟩ := h
  rw [hz, decide_eq_true_iff, ← BitVec.toNat_inj]
  have ha := a.isLt
  have hv := v.isLt
  omega

theorem flag_c_iff_of_diffFlags {a v : Nat} {t : State} (h : DiffFlags a v 0 t) : t.flag .c = true ↔ a < v := by
  obtain ⟨-, -, -, hc⟩ := h
  rw [hc, decide_eq_true_iff, Nat.add_zero]

theorem compareWithA_diffFlags_effect (v : Byte) (n : Word) (s : State) :
    Effect (compareWithA v n s) s n [] allFlags [] [] fun t => DiffFlags (s.get8 .a).toNat v.toNat 0 t := by
  refine (compareWithA_effect v n s).weaken fun t ⟨hz, hn, hh, hc⟩ => ?_
  rw [← sbc8_false] at hz hh hc
  exact diffFlags_of_sbc8 hz hn hh hc

/-- Settles O32: the three forms of each run `accumulate` of the sum; ADD is the sum without an incoming carry. -/
theorem addAndAdc : Obligations.AddAndAdc := by
  intro s
  constructor
  · refine threeForms_of_effect (run := fun v => accumulate (add8 (s.get8 .a) v) false) (fun v n => ?_)
      (fun _ => ⟨rfl, rfl, rfl⟩) ⟨rfl, rfl, rfl⟩ (fun _ => ⟨rfl, rfl, rfl⟩)
    rw [← adc8_false]
    exact accumulate_adc8_effect v false n s
  · exact threeForms_of_effect (run := fun v => accumulate (adc8 (s.get8 .a) v (s.flag .c)) false)
      (fun v n => accumulate_adc8_effect v (s.flag .c) n s)
      (fun _ => ⟨rfl, rfl, rfl⟩) ⟨rfl, rfl, rfl⟩ (fun _ => ⟨rfl, rfl, rfl⟩)

/-- Settles O33: the three forms of each run `accumulate` of the difference; SUB is the one without an incoming borrow. -/
theorem subAndSbc : Obligations.SubAndSbc := by
  intro s
  constructor
  · refine threeForms_of_effect (run := fun v => accumulate (sub8 (s.get8 .a) v) true) (fun v n => ?_)
      (fun _ => ⟨rfl, rfl, rfl⟩) ⟨rfl, rfl, rfl⟩ (fun _ => ⟨rfl, rfl, rfl⟩)
    rw [← sbc8_false]
    exact accumulate_sbc8_effect v false n s
  · exact threeForms_of_effect (run := fun v => accumulate (sbc8 (s.get8 .a) v (s.flag .c)) true)
      (fun v n => accumulate_sbc8_effect v (s.flag .c) n s)
      (fun _ => ⟨rfl, rfl, rfl⟩) ⟨rfl, rfl, rfl⟩ (fun _ => ⟨rfl, rfl, rfl⟩)

/-- Settles O34: the three forms run `compareWithA`, and what Z and C say of the operands follows from the flags of SUB. -/
theorem compareWritesFlagsOnly : Obligations.CompareWritesFlagsOnly := fun s =>
  threeForms_of_effect (run := compareWithA)
    (fun v n => (compareWithA_diffFlags_effect v n s).weaken fun _ h =>
      ⟨h, flag_z_iff_of_diffFlags h, flag_c_iff_of_diffFlags h⟩)
    (fun _ => ⟨rfl, rfl, rfl⟩) ⟨rfl, rfl, rfl⟩ (fun _ => ⟨rfl, rfl, rfl⟩)

/-! ## INC and DEC (R206 to R209) -/

theorem stepTarget_add8_one_effect (g : Target8) (s : State) :
    Effect (stepTarget g (add8 (s.readTarget g) 1) false s) s 1 (targetHalves g) [.z, .n, .h] [] (targetCells g s) fun t =>
      (targetIn g s t).toNat = ((s.readTarget g).toNat + 1) % 256 ∧ t.flag .z = decide ((s.readTarget g).toNat = 255) ∧
        t.flag .n = false ∧ t.flag .h = decide ((s.readTarget g).toNat % 16 = 15) := by
  refine (stepTarget_effect g _ _ s).weaken fun t ⟨hv, hz, hn, hh⟩ => ⟨?_, ?_, hn, ?_⟩
  · rw [hv]
    exact add8_result_toNat _ 1
  · rw [hz, add8_one_beq_zero]
  · rw [hh, add8_one_half]

theorem stepTarget_sub8_one_effect (g : Target8) (s : State) :
    Effect (stepTarget g (sub8 (s.readTarget g) 1) true s) s 1 (targetHalves g) [.z, .n, .h] [] (targetCells g s) fun t =>
      (targetIn g s t).toNat = ((s.readTarget g).toNat + 255) % 256 ∧ t.flag .z = decide ((s.readTarget g).toNat = 1) ∧
        t.flag .n = true ∧ t.flag .h = decide ((s.readTarget g).toNat % 16 = 0) := by
  refine (stepTarget_effect g _ _ s).weaken fun t ⟨hv, hz, hn, hh⟩ => ⟨?_, ?_, hn, ?_⟩
  · rw [hv]
    exact sub8_result_toNat _ 1
  · rw [hz, sub8_one_beq_zero]
  · rw [hh, sub8_one_half]

/-- Settles O35: the halve and the byte at HL are the two targets of one operation. -/
theorem increment : Obligations.Increment := fun s =>
  ⟨fun r => does_of_effect rfl rfl (stepTarget_add8_one_effect (.reg r) s),
    does_of_effect rfl rfl (stepTarget_add8_one_effect .atHL s)⟩

/-- Settles O36: the halve and the byte at HL are the two targets of one operation. -/
theorem decrement : Obligations.Decrement := fun s =>
  ⟨fun r => does_of_effect rfl rfl (stepTarget_sub8_one_effect (.reg r) s),
    does_of_effect rfl rfl (stepTarget_sub8_one_effect .atHL s)⟩

/-! ## ADD HL,rr (R210) -/

/-- Settles O37: `add16` of HL and the register, under the profile `doc`, which writes Z too. -/
theorem addToHL : Obligations.AddToHL := by
  intro s rr
  refine does_of_effect rfl rfl ((addHLrrUnder_effect .doc rr s).weaken fun t ⟨hhl, hn, hh, hc, hz⟩ => ⟨?_, ?_, hn, ?_, ?_⟩)
  · rw [hhl, add16_result_toNat]
  · rw [hz rfl, beq_zero_eq_decide, add16_result_toNat]
  · rw [hh, add16_half]
  · rw [hc, add16_carry]

end Sys2Proof

/-! Proofs for 44_bitwise.md: AND, OR and XOR into A (R220 to R229). The three run one operation, `bitwiseIntoA`, and differ
in the function of two bits and in H. -/

namespace Sys2Proof

open Sys2Proof.Machine

/-- The effect of an operation on bytes that acts on each bit by itself, as `bit` (R220). -/
theorem bitwiseIntoA_bits_effect {op : Byte → Byte → Byte} {bit : Bool → Bool → Bool}
    (hop : ∀ (a v : Byte) (k : Nat), (op a v).getLsbD k = bit (a.getLsbD k) (v.getLsbD k)) (h : Bool) (v : Byte) (n : Word)
    (s : State) :
    Effect (bitwiseIntoA (op (s.get8 .a) v) h n s) s n [.a] allFlags [] [] fun t =>
      (∀ k < 8, (t.get8 .a).getLsbD k = bit ((s.get8 .a).getLsbD k) (v.getLsbD k)) ∧
        t.flag .z = decide (t.get8 .a = 0) ∧ t.flag .n = false ∧ t.flag .h = h ∧ t.flag .c = false := by
  refine (bitwiseIntoA_effect _ h n s).weaken fun t ⟨ha, hz, hn, hh, hc⟩ => ⟨fun k _ => ?_, ?_, hn, hh, hc⟩
  · rw [ha, hop]
  · rw [hz, ha, beq_eq_decide]

/-- Settles O38: the three forms of each run `bitwiseIntoA` of an operation that acts on each bit by itself. (The name
is the obligation's; the operation is `Machine.bitwiseIntoA`.) -/
theorem bitwiseIntoA : Obligations.BitwiseIntoA := fun s =>
  ⟨threeForms_of_effect (bitwiseIntoA_bits_effect (fun _ _ _ => BitVec.getLsbD_and) true · · s)
      (fun _ => ⟨rfl, rfl, rfl⟩) ⟨rfl, rfl, rfl⟩ (fun _ => ⟨rfl, rfl, rfl⟩),
    threeForms_of_effect (bitwiseIntoA_bits_effect (fun _ _ _ => BitVec.getLsbD_or) false · · s)
      (fun _ => ⟨rfl, rfl, rfl⟩) ⟨rfl, rfl, rfl⟩ (fun _ => ⟨rfl, rfl, rfl⟩),
    threeForms_of_effect (bitwiseIntoA_bits_effect (fun _ _ _ => BitVec.getLsbD_xor) false · · s)
      (fun _ => ⟨rfl, rfl, rfl⟩) ⟨rfl, rfl, rfl⟩ (fun _ => ⟨rfl, rfl, rfl⟩)⟩

end Sys2Proof

/-! Proofs for 45_flag_accumulator.md: CCF, SCF and CPL (R231, R232, R234), the adjustment of DAA in exact numbers (R233),
and that after an addition or a subtraction of BCD bytes it gives the decimal result (70_reset_and_hazards.md R307). -/

namespace Sys2Proof.Machine

/-! ## C forced where the second condition of DAA holds (R233) -/

theorem set8_get8 (s : State) (x : Half) : s.set8 x (s.get8 x) = s := by
  cases x <;> simp [State.set8, State.get8]

/-- Writing a flag with its own value changes nothing (R25). -/
theorem setFlag_flag (s : State) (f : Flag) : s.setFlag f (s.flag f) = s := by
  have hF : (s.setFlag f (s.flag f)).get8 .f = s.get8 .f := by
    apply BitVec.eq_of_getLsbD_eq
    intro k hk
    by_cases h : k = flagPos f
    · have hflag : (s.setFlag f (s.flag f)).flag f = s.flag f := by simp
      rw [h]
      exact hflag
    · exact getLsbD_setFlag_of_ne s _ hk h
  rw [State.setFlag, get8_set8, if_pos rfl] at hF
  rw [State.setFlag, hF, set8_get8]

/-- C is written only where the second condition holds; where it fails C is 0 already. -/
theorem force_c_eq_setFlag (s : State) (a : Byte) (sub : Bool) :
    (if daaHigh a sub (s.flag .c) then s.setFlag .c true else s) = s.setFlag .c (daaHigh a sub (s.flag .c)) := by
  split
  next h => rw [h]
  next h =>
    have hhigh : daaHigh a sub (s.flag .c) = false := by simpa using h
    obtain ⟨-, hc⟩ : _ ∧ s.flag .c = false := by simpa [daaHigh] using hhigh
    rw [hhigh, ← hc, setFlag_flag]

/-! ## The adjustment in exact numbers (R233) -/

section
variable (a : Byte) (sub hin cin : Bool)

theorem daaLow_iff : daaLow a sub hin = true ↔ (sub = false ∧ a.toNat % 16 > 9) ∨ hin = true := by
  simp only [daaLow, toNat_low4, Bool.or_eq_true, Bool.and_eq_true, Bool.not_eq_true', decide_eq_true_iff]

theorem daaHigh_iff : daaHigh a sub cin = true ↔ (sub = false ∧ a.toNat > 0x99) ∨ cin = true := by
  simp only [daaHigh, Bool.or_eq_true, Bool.and_eq_true, Bool.not_eq_true', decide_eq_true_iff]

/-- After a subtraction only the flags are tested. -/
@[simp] theorem daaLow_true : daaLow a true hin = hin := rfl

@[simp] theorem daaHigh_true : daaHigh a true cin = cin := rfl

/-- 0x06 and 0x60 have no bit in common, so their OR is their sum. -/
theorem daaOffset_toNat : (daaOffset a sub hin cin).toNat =
    (if daaLow a sub hin then 6 else 0) + (if daaHigh a sub cin then 0x60 else 0) := by
  unfold daaOffset
  cases daaLow a sub hin <;> cases daaHigh a sub cin <;> rfl

/-- The same with each condition as the number 0 or 1. -/
theorem daaOffset_toNat_eq_mul : (daaOffset a sub hin cin).toNat =
    6 * (daaLow a sub hin).toNat + 0x60 * (daaHigh a sub cin).toNat := by
  unfold daaOffset
  cases daaLow a sub hin <;> cases daaHigh a sub cin <;> rfl

theorem daaResult_toNat : (daaResult a sub hin cin).toNat =
    if sub then (a.toNat + 256 - (daaOffset a sub hin cin).toNat) % 256
    else (a.toNat + (daaOffset a sub hin cin).toNat) % 256 := by
  cases sub with
  | false => exact BitVec.toNat_add _ _
  | true => exact sub8_result_toNat a _

end

end Sys2Proof.Machine

namespace Sys2Proof

open Sys2Proof.Machine

/-! ## CCF, SCF and CPL (R231, R232, R234) -/

/-- CCF and SCF differ in the value that C takes. -/
theorem setCThenClearNH_effect (c : Bool) (s : State) :
    Effect (.next ((((s.setFlag .c c).setFlag .n false).setFlag .h false).advance 1)) s 1 [] [.n, .h, .c] [] [] fun t =>
      t.flag .c = c ∧ t.flag .n = false ∧ t.flag .h = false :=
  ⟨_, rfl, rfl, (((frame_setFlag s .c c).trans (frame_setFlag _ .n _)).trans (frame_setFlag _ .h _)).trans (frame_advance _ 1)
    |>.mono (by simp) (by decide) (by simp) (by simp), by simp⟩

theorem execCPL_effect (s : State) :
    Effect (execCPL s) s 1 [.a] [.n, .h] [] [] fun t =>
      t.get8 .a = ~~~s.get8 .a ∧ t.flag .n = true ∧ t.flag .h = true :=
  ⟨_, rfl, rfl, (((frame_set8 s (x := .a) (by decide) _).trans (frame_setFlag _ .n _)).trans (frame_setFlag _ .h _)).trans
    (frame_advance _ 1), by simp⟩

/-- Settles O39: CCF and SCF are one operation, and the complement of a byte is 255 minus it. -/
theorem flagAndComplementInstructions : Obligations.FlagAndComplementInstructions := fun s =>
  ⟨does_of_effect rfl rfl (setCThenClearNH_effect _ s), does_of_effect rfl rfl (setCThenClearNH_effect _ s),
    does_of_effect rfl rfl ((execCPL_effect s).weaken fun _ ⟨ha, hnh⟩ => ⟨by rw [ha]; exact BitVec.toNat_not, hnh⟩)⟩

/-! ## DAA (R233) -/

theorem execDAA_effect (s : State) :
    Effect (execDAA s) s 1 [.a] [.z, .h, .c] [] [] fun t =>
      t.get8 .a = daaResult (s.get8 .a) (s.flag .n) (s.flag .h) (s.flag .c) ∧ t.flag .z = (t.get8 .a == 0) ∧
        t.flag .h = false ∧ t.flag .c = daaHigh (s.get8 .a) (s.flag .n) (s.flag .c) := by
  simp only [execDAA, force_c_eq_setFlag]
  exact ⟨_, rfl, by simp, ((((frame_setFlag s .c _).trans (frame_set8 _ (x := .a) (by decide) _)).trans
    (frame_setFlag _ .z _)).trans (frame_setFlag _ .h _)).trans (frame_advance _ 1)
    |>.mono (by simp) (by decide) (by simp) (by simp), by simp⟩

/-- Settles O40: the two conditions, the offset and the result of the model, each in exact numbers. -/
theorem decimalAdjust : Obligations.DecimalAdjust := by
  intro s
  refine does_of_effect rfl rfl ((execDAA_effect s).weaken fun t ⟨ha, hz, hh, hc⟩ => ⟨?_, ?_, hh, ?_⟩)
  · rw [ha, daaResult_toNat, daaOffset_toNat, if_congr (daaLow_iff _ _ _) rfl rfl, if_congr (daaHigh_iff _ _ _) rfl rfl]
  · rw [hz, beq_eq_decide]
  · rw [hc, Bool.eq_iff_iff, daaHigh_iff, decide_eq_true_iff]

/-! ## DAA after an operation on BCD bytes (R233, 70_reset_and_hazards.md R307) -/

theorem bcd_toNat {n : Nat} (hn : n < 100) : (bcd n).toNat = n / 10 * 16 + n % 10 := by
  rw [bcd, BitVec.toNat_ofNat]
  omega

/-- The BCD byte has one digit in each nibble (00_scope.md R11). -/
theorem bcd_digits_toNat {i j : Nat} (hi : i ≤ 9) (hj : j ≤ 9) : (bcd (10 * i + j)).toNat = 16 * i + j := by
  rw [bcd_toNat (by omega)]
  omega

/-- The digit and the carry of a sum of two decimal digits and a carry. -/
theorem exists_carry {x : Nat} (hx : x ≤ 19) : ∃ c : Bool, ∃ j ≤ 9, x = 10 * c.toNat + j := by
  by_cases h : x ≤ 9
  · exact ⟨false, x, h, (Nat.zero_add x).symm⟩
  · exact ⟨true, x - 10, by omega, (Nat.add_sub_of_le (not_le.1 h)).symm⟩

/-- The digit and the borrow of a decimal digit less another and a borrow. -/
theorem exists_borrow {x y : Nat} (hx : x ≤ 9) (hy : y ≤ 10) : ∃ b : Bool, ∃ j ≤ 9, x + 10 * b.toNat = y + j := by
  by_cases h : y ≤ x
  · exact ⟨false, x - y, by omega, (Nat.add_sub_of_le h).symm⟩
  · exact ⟨true, x + 10 - y, by omega, (Nat.add_sub_of_le (Nat.le_add_left_of_le hy)).symm⟩

/-- What takes `a` to `x` modulo 256 takes the byte of `a` there, too. -/
theorem mod_add_offset {a x off c : Nat} (h : a + off = 256 * c + x) (hx : x < 256) : (a % 256 + off) % 256 = x := by
  rw [Nat.mod_add_mod, h, Nat.mul_add_mod, Nat.mod_eq_of_lt hx]

theorem mod_sub_offset {a x off c : Nat} (h : a = 256 * c + (x + off)) (hx : x < 256) (hoff : off ≤ 256) :
    (a % 256 + 256 - off) % 256 = x := by
  omega

/-- DAA begun in `t` completes, with the BCD byte of `res` in A and `carry` in C. -/
def DaaGives (t : State) (res : Nat) (carry : Bool) : Prop :=
  ∃ u, exec .daa t = .next u ∧ u.get8 .a = bcd res ∧ u.flag .c = carry

theorem daaGives_of_daaResult {t : State} {res : Nat} {carry : Bool}
    (hres : daaResult (t.get8 .a) (t.flag .n) (t.flag .h) (t.flag .c) = bcd res)
    (hcarry : daaHigh (t.get8 .a) (t.flag .n) (t.flag .c) = carry) : DaaGives t res carry := by
  obtain ⟨u, hu, -, -, ha, -, -, hc⟩ := execDAA_effect t
  exact ⟨u, hu, ha.trans hres, hc.trans hcarry⟩

theorem Does.thenDaa {i : Instr} {bytes : List Byte} {s : State} {h : List Half} {f : List Flag} {r : List Reg16}
    {c : List Word} {p : State → Prop} {res : Nat} {carry : Bool} (hi : Does i bytes s h f r c p)
    (hp : ∀ t, p t → DaaGives t res carry) : ThenDaa i s res carry := by
  obtain ⟨-, t, ht, -, -, pt⟩ := hi
  obtain ⟨u, hu⟩ := hp t pt
  exact ⟨t, u, ht, hu⟩

/-- The three forms of an operation differ in where the second operand stands, which DAA does not see. -/
theorem ThreeForms.thenDaa {reg : R8 → Instr} {mem : Instr} {imm : Byte → Instr} {op opImm : Byte} {s : State}
    {halves : List Half} {post : Byte → State → Prop} {m res : Nat} {carry : Bool}
    (hforms : ThreeForms reg mem imm op opImm s halves post) (hpost : ∀ t, post (bcd m) t → DaaGives t res carry) :
    ThreeFormsThenDaa reg mem imm s m res carry := by
  obtain ⟨hreg, hmem, himm⟩ := hforms
  refine ⟨fun r hr => (hreg r).thenDaa ?_, fun hm => hmem.thenDaa ?_, (himm _).thenDaa hpost⟩
  · rwa [hr]
  · rwa [hm]

section
variable {n m k : Nat} (hn : n < 100) (hm : m < 100) (hk : k ≤ 1)
include hn hm hk

/-- Decimal addition: digits `i` and `j`, carries `c₁` and `c₀`. The bytes carry in base 16, which is 6 more at each place. -/
theorem exists_digits_of_sum : ∃ c₀ c₁ : Bool, ∃ i ≤ 9, ∃ j ≤ 9, n + m + k = 100 * c₁.toNat + (10 * i + j) ∧
    (bcd n).toNat % 16 + (bcd m).toNat % 16 + k = 10 * c₀.toNat + j ∧
    (bcd n).toNat + (bcd m).toNat + k + (6 * c₀.toNat + 0x60 * c₁.toNat) = 256 * c₁.toNat + (16 * i + j) := by
  obtain ⟨c₀, j, hj, hlow⟩ := exists_carry (x := n % 10 + m % 10 + k) (by omega)
  have hc₀ := c₀.toNat_le
  obtain ⟨c₁, i, hi, hhigh⟩ := exists_carry (x := n / 10 + m / 10 + c₀.toNat) (by omega)
  rw [bcd_toNat hn, bcd_toNat hm]
  exact ⟨c₀, c₁, i, hi, j, hj, by omega⟩

/-- Decimal subtraction: digits `i` and `j`, borrows `b₁` and `b₀`. -/
theorem exists_digits_of_diff : ∃ b₀ b₁ : Bool, ∃ i ≤ 9, ∃ j ≤ 9, n + 100 * b₁.toNat = m + k + (10 * i + j) ∧
    (bcd n).toNat % 16 + 10 * b₀.toNat = (bcd m).toNat % 16 + k + j ∧
    (bcd n).toNat + 256 * b₁.toNat = (bcd m).toNat + k + (16 * i + j) + (6 * b₀.toNat + 0x60 * b₁.toNat) := by
  obtain ⟨b₀, j, hj, hlow⟩ := exists_borrow (x := n % 10) (y := m % 10 + k) (by omega) (by omega)
  have hb₀ := b₀.toNat_le
  obtain ⟨b₁, i, hi, hhigh⟩ := exists_borrow (x := n / 10) (y := m / 10 + b₀.toNat) (by omega) (by omega)
  rw [bcd_toNat hn, bcd_toNat hm]
  exact ⟨b₀, b₁, i, hi, j, hj, by omega⟩

variable {t : State}

/-- After a sum the two conditions are the carries of the decimal addition: a sum of digits that is above 9 is seen in the
nibble, or has left it and set the flag. -/
theorem daaGives_of_sumInA (h : SumInA (bcd n).toNat (bcd m).toNat k t) :
    DaaGives t ((n + m + k) % 100) (decide (n + m + k ≥ 100)) := by
  obtain ⟨ha, -, hN, hH, hC⟩ := h
  obtain ⟨c₀, c₁, i, hi, j, hj, hsum, hnibbles, hbytes⟩ := exists_digits_of_sum hn hm hk
  have hc₀ := c₀.toNat_le
  have hc₁ := c₁.toNat_le
  have hres : (n + m + k) % 100 = 10 * i + j := by omega
  have hcarry : decide (n + m + k ≥ 100) = c₁ := by
    rw [Bool.eq_iff_iff, decide_eq_true_iff, ← Bool.toNat_eq_one]
    omega
  have hlow : daaLow (t.get8 .a) (t.flag .n) (t.flag .h) = c₀ := by
    rw [Bool.eq_iff_iff, daaLow_iff, hN, hH, ha, decide_eq_true_iff, ← Bool.toNat_eq_one (b := c₀)]
    simp only [true_and]
    omega
  have hhigh : daaHigh (t.get8 .a) (t.flag .n) (t.flag .c) = c₁ := by
    rw [Bool.eq_iff_iff, daaHigh_iff, hN, hC, ha, decide_eq_true_iff, ← Bool.toNat_eq_one (b := c₁)]
    simp only [true_and]
    omega
  rw [hres, hcarry]
  refine daaGives_of_daaResult (BitVec.eq_of_toNat_eq ?_) hhigh
  rw [daaResult_toNat, daaOffset_toNat_eq_mul, hlow, hhigh, hN, ha, bcd_digits_toNat hi hj, if_neg Bool.false_ne_true]
  exact mod_add_offset hbytes (by omega)

/-- After a difference the two conditions are the flags alone, which are the borrows of the decimal subtraction. -/
theorem daaGives_of_diffInA (h : DiffInA (bcd n).toNat (bcd m).toNat k t) :
    DaaGives t ((n + 100 - (m + k)) % 100) (decide (n < m + k)) := by
  obtain ⟨ha, -, hN, hH, hC⟩ := h
  obtain ⟨b₀, b₁, i, hi, j, hj, hdiff, hnibbles, hbytes⟩ := exists_digits_of_diff hn hm hk
  have hb₀ := b₀.toNat_le
  have hb₁ := b₁.toNat_le
  have hres : (n + 100 - (m + k)) % 100 = 10 * i + j := by omega
  have hborrow : decide (n < m + k) = b₁ := by
    rw [Bool.eq_iff_iff, decide_eq_true_iff, ← Bool.toNat_eq_one]
    omega
  have hlow : daaLow (t.get8 .a) (t.flag .n) (t.flag .h) = b₀ := by
    rw [hN, daaLow_true, hH, Bool.eq_iff_iff, decide_eq_true_iff, ← Bool.toNat_eq_one]
    omega
  have hhigh : daaHigh (t.get8 .a) (t.flag .n) (t.flag .c) = b₁ := by
    rw [hN, daaHigh_true, hC, Bool.eq_iff_iff, decide_eq_true_iff, ← Bool.toNat_eq_one]
    omega
  rw [hres, hborrow]
  refine daaGives_of_daaResult (BitVec.eq_of_toNat_eq ?_) hhigh
  rw [daaResult_toNat, daaOffset_toNat_eq_mul, hlow, hhigh, hN, ha, bcd_digits_toNat hi hj, if_pos rfl]
  exact mod_sub_offset (c := 2 - b₁.toNat) (by omega) (by omega) (by omega)

end

/-- Settles O41: the three forms of each leave the sum or the difference of the bytes, which DAA makes decimal. -/
theorem decimalArithmeticIsCorrect : Obligations.DecimalArithmeticIsCorrect := by
  intro s n m hn hm ha
  have hc : (s.flag .c).toNat ≤ 1 := Bool.toNat_le _
  obtain ⟨hadd, hadc⟩ := addAndAdc s
  obtain ⟨hsub, hsbc⟩ := subAndSbc s
  rw [ha] at hadd hadc hsub hsbc
  exact ⟨hadd.thenDaa fun _ => daaGives_of_sumInA hn hm (Nat.zero_le 1),
    hadc.thenDaa fun _ => daaGives_of_sumInA hn hm hc,
    hsub.thenDaa fun _ => daaGives_of_diffInA hn hm (Nat.zero_le 1),
    hsbc.thenDaa fun _ => daaGives_of_diffInA hn hm hc⟩

end Sys2Proof

/-! Proofs for 46_rotate_shift.md: the accumulator forms (R241 to R244), the rotates and shifts (R245 to R258) and SWAP (R259,
R260). The CB-prefixed members run one operation on two targets, and each moves its operand one place up or down; they
differ in the bit that arrives. -/

namespace Sys2Proof.Machine

/-! ## The results as moves by one place (R240) -/

section
variable (v : Byte) (c : Bool)

theorem getLsbD_bitByte (k : Nat) : (bitByte c).getLsbD k = (decide (k = 0) && c) := by
  cases c with
  | false => simp [bitByte]
  | true => simp [bitByte, BitVec.getLsbD_one]

/-- A shift up leaves bit 0 free, where the arriving bit is ORed in. -/
theorem movedLeft_shiftLeft_or : MovedLeft v c (v <<< 1 ||| bitByte c) := by
  intro k hk
  rw [BitVec.getLsbD_or, BitVec.getLsbD_shiftLeft, getLsbD_bitByte]
  by_cases h0 : k = 0
  · simp [h0]
  · simp [h0, hk]

/-- A shift down leaves bit 7 free, where the arriving bit is ORed in. -/
theorem movedRight_shiftRight_or : MovedRight v c (v >>> 1 ||| bitByte c <<< 7) := by
  intro k hk
  rw [BitVec.getLsbD_or, BitVec.getLsbD_ushiftRight, BitVec.getLsbD_shiftLeft, getLsbD_bitByte, Nat.add_comm 1 k]
  by_cases h7 : k = 7
  · simp [h7]
  · simp [h7, show k < 7 by omega]

theorem movedLeft_rotResult_rlc : MovedLeft v (v.getLsbD 7) (rotResult .rlc v c) := movedLeft_shiftLeft_or v _

theorem movedRight_rotResult_rrc : MovedRight v (v.getLsbD 0) (rotResult .rrc v c) := movedRight_shiftRight_or v _

theorem movedLeft_rotResult_rl : MovedLeft v c (rotResult .rl v c) := movedLeft_shiftLeft_or v c

theorem movedRight_rotResult_rr : MovedRight v c (rotResult .rr v c) := movedRight_shiftRight_or v c

/-- SLA is a move up in which 0 arrives (R253, R254). -/
theorem movedLeft_rotResult_sla : MovedLeft v false (rotResult .sla v c) := by
  have h := movedLeft_shiftLeft_or v false
  rwa [show bitByte false = 0#8 from rfl, BitVec.or_zero] at h

/-- SRL is a move down in which 0 arrives (R257, R258). -/
theorem movedRight_rotResult_srl : MovedRight v false (rotResult .srl v c) := by
  have h := movedRight_shiftRight_or v false
  rwa [show bitByte false <<< 7 = 0#8 from rfl, BitVec.or_zero] at h

/-- SRA is the arithmetic shift, in which bit 7 arrives at its own place (R255, R256). -/
theorem movedRight_rotResult_sra : MovedRight v (v.getLsbD 7) (rotResult .sra v c) := by
  intro k hk
  rw [rotResult_sra, BitVec.getLsbD_sshiftRight, Nat.add_comm 1 k]
  by_cases h7 : k = 7
  · rw [if_pos h7, if_neg (by omega)]
    simp [hk, BitVec.msb_eq_getLsbD_last]
  · rw [if_neg h7, if_pos (by omega)]
    simp [hk]

/-- The arithmetic shift divides by 2 and rounds toward minus infinity. -/
theorem rotResult_sra_toInt : (rotResult .sra v c).toInt = v.toInt / 2 := by
  rw [rotResult_sra, BitVec.toInt_sshiftRight, Int.shiftRight_eq_div_pow]
  rfl

/-- The low nibble moves up, where the high nibble is not: OR is their sum. -/
theorem rotResult_swap_toNat : (rotResult .swap v c).toNat = v.toNat % 16 * 16 + v.toNat / 16 := by
  have hhigh : v.toNat / 16 < 2 ^ 4 := Nat.div_lt_of_lt_mul v.isLt
  have hlow : v.toNat % 16 * 2 ^ 4 < 2 ^ 8 := by omega
  change ((v &&& 0x0F) <<< 4 ||| v >>> 4).toNat = _
  rw [BitVec.toNat_or, BitVec.toNat_shiftLeft, BitVec.toNat_ushiftRight, toNat_low4, Nat.shiftLeft_eq, Nat.mod_eq_of_lt hlow,
    Nat.shiftRight_eq_div_pow, ← Nat.shiftLeft_eq, ← Nat.shiftLeft_add_eq_or_of_lt hhigh, Nat.shiftLeft_eq]

end

end Sys2Proof.Machine

namespace Sys2Proof

open Sys2Proof.Machine

/-! ## The two targets of a CB-prefixed member (R240) -/

section
variable {op : RotOp}

/-- Under `doc` a member other than SWAP writes C alone, with the departing bit. -/
theorem rotateUnder_doc_effect (hop : op ≠ .swap) (g : Target8) (s : State) :
    Effect (rotateUnder .doc op g s) s 2 (targetHalves g) [.c] [] (targetCells g s) fun t =>
      targetIn g s t = rotResult op (s.readTarget g) (s.flag .c) ∧ t.flag .c = rotCarry op (s.readTarget g) := by
  have e := rotateUnder_effect .doc op g s
  rw [rotFlagsWritten_doc, if_neg hop] at e
  refine e.weaken fun t ⟨hres, hflag⟩ => ⟨hres, ?_⟩
  rw [hflag, flag_rotFlags_doc hop, if_pos rfl]

theorem rotateUnder_swap_effect (g : Target8) (s : State) :
    Effect (rotateUnder .doc .swap g s) s 2 (targetHalves g) allFlags [] (targetCells g s) fun t =>
      targetIn g s t = rotResult .swap (s.readTarget g) (s.flag .c) ∧ t.flag .z = (targetIn g s t == 0) ∧
        t.flag .n = false ∧ t.flag .h = false ∧ t.flag .c = false := by
  refine (rotateUnder_effect .doc .swap g s).weaken fun t ⟨hres, hflag⟩ => ?_
  simp only [flag_rotFlags_swap] at hflag
  exact ⟨hres, hres ▸ hflag .z, hflag .n, hflag .h, hflag .c⟩

variable {s : State}

/-- Two forms that run one operation, on a halve and on the byte at HL, have its effect. -/
theorem twoForms_of_effect {reg : R8 → Instr} {mem : Instr} {op2 : Byte} {flags : List Flag}
    {post : Byte → Byte → State → Prop}
    (effect : ∀ g, Effect (rotateUnder .doc op g s) s 2 (targetHalves g) flags [] (targetCells g s) fun t =>
      post (s.readTarget g) (targetIn g s t) t)
    (hreg : ∀ r, RunsAs (reg r) [0xCB, op2 + r.code] s (rotateUnder .doc op (.reg r) s))
    (hmem : RunsAs mem [0xCB, op2 + 6] s (rotateUnder .doc op .atHL s)) : TwoForms reg mem op2 s flags post :=
  ⟨fun r => (hreg r).does (effect (.reg r)), hmem.does (effect .atHL)⟩

/-- The two forms of a member other than SWAP, by what holds of its result. -/
theorem twoForms_of_rotResult {reg : R8 → Instr} {mem : Instr} {op2 : Byte} {post : Byte → Byte → State → Prop}
    (hop : op ≠ .swap) (hpost : ∀ v t, t.flag .c = rotCarry op v → post v (rotResult op v (s.flag .c)) t)
    (hreg : ∀ r, RunsAs (reg r) [0xCB, op2 + r.code] s (rotateUnder .doc op (.reg r) s))
    (hmem : RunsAs mem [0xCB, op2 + 6] s (rotateUnder .doc op .atHL s)) : TwoForms reg mem op2 s [.c] post := by
  refine twoForms_of_effect (fun g => (rotateUnder_doc_effect hop g s).weaken fun t ⟨hres, hc⟩ => ?_) hreg hmem
  rw [hres]
  exact hpost _ t hc

end

/-! ## The rotate, shift and swap family -/

/-- An accumulator form under `doc`, by what holds of its result. -/
theorem does_of_rotResult {i : Instr} {b : Byte} {s : State} {op : RotOp} {post : Byte → Prop}
    (hi : RunsAs i [b] s (rotateAccUnder .doc op s)) (hpost : post (rotResult op (s.get8 .a) (s.flag .c))) :
    Does i [b] s [.a] [.c] [] [] fun t => post (t.get8 .a) ∧ t.flag .c = rotCarry op (s.get8 .a) := by
  refine hi.does ((rotateAccUnder_effect .doc op s).weaken fun t ⟨ha, hc, _⟩ => ⟨?_, hc⟩)
  rwa [ha]

/-- Settles O42: each form is the one rotate of A, and its result is A moved by one place. -/
theorem rotateAccumulator : Obligations.RotateAccumulator := fun _ =>
  ⟨does_of_rotResult ⟨rfl, rfl, rfl⟩ (movedLeft_rotResult_rlc _ _),
    does_of_rotResult ⟨rfl, rfl, rfl⟩ (movedRight_rotResult_rrc _ _),
    does_of_rotResult ⟨rfl, rfl, rfl⟩ (movedLeft_rotResult_rl _ _),
    does_of_rotResult ⟨rfl, rfl, rfl⟩ (movedRight_rotResult_rr _ _)⟩

/-- Settles O43: the halve and the byte at HL are the two targets of each rotate. -/
theorem rotateHalveOrMemory : Obligations.RotateHalveOrMemory := fun s =>
  ⟨twoForms_of_rotResult (op := .rlc) (by decide) (fun v _ hc => ⟨movedLeft_rotResult_rlc v _, hc⟩)
      (fun _ => ⟨rfl, rfl, rfl⟩) ⟨rfl, rfl, rfl⟩,
    twoForms_of_rotResult (op := .rrc) (by decide) (fun v _ hc => ⟨movedRight_rotResult_rrc v _, hc⟩)
      (fun _ => ⟨rfl, rfl, rfl⟩) ⟨rfl, rfl, rfl⟩,
    twoForms_of_rotResult (op := .rl) (by decide) (fun v _ hc => ⟨movedLeft_rotResult_rl v _, hc⟩)
      (fun _ => ⟨rfl, rfl, rfl⟩) ⟨rfl, rfl, rfl⟩,
    twoForms_of_rotResult (op := .rr) (by decide) (fun v _ hc => ⟨movedRight_rotResult_rr v _, hc⟩)
      (fun _ => ⟨rfl, rfl, rfl⟩) ⟨rfl, rfl, rfl⟩⟩

/-- Settles O44: the halve and the byte at HL are the two targets of each shift, and SRA is the arithmetic shift. -/
theorem shiftHalveOrMemory : Obligations.ShiftHalveOrMemory := fun s =>
  ⟨twoForms_of_rotResult (op := .sla) (by decide) (fun v _ hc => ⟨movedLeft_rotResult_sla v _, hc⟩)
      (fun _ => ⟨rfl, rfl, rfl⟩) ⟨rfl, rfl, rfl⟩,
    twoForms_of_rotResult (op := .sra) (by decide)
      (fun v _ hc => ⟨movedRight_rotResult_sra v _, rotResult_sra_toInt v _, hc⟩)
      (fun _ => ⟨rfl, rfl, rfl⟩) ⟨rfl, rfl, rfl⟩,
    twoForms_of_rotResult (op := .srl) (by decide) (fun v _ hc => ⟨movedRight_rotResult_srl v _, hc⟩)
      (fun _ => ⟨rfl, rfl, rfl⟩) ⟨rfl, rfl, rfl⟩⟩

/-- Settles O45: the halve and the byte at HL are the two targets of SWAP. -/
theorem swapNibbles : Obligations.SwapNibbles := by
  intro s
  refine twoForms_of_effect (fun g => (rotateUnder_swap_effect g s).weaken fun t ⟨hres, hz, hnhc⟩ => ⟨?_, ?_, hnhc⟩)
    (fun _ => ⟨rfl, rfl, rfl⟩) ⟨rfl, rfl, rfl⟩
  · rw [hres, rotResult_swap_toNat]
  · rw [hz, beq_eq_decide]

end Sys2Proof

/-! Proofs for 47_bit_test.md (R271, R272), for 60_exceptions.md: which instructions complete, fault or are refused (R280 to
R284, R290), and that the bytes at PC alone say which (R284); and the reset values the model chooses (10_state.md R34). -/

namespace Sys2Proof

open Sys2Proof.Machine

/-! ## The bit-test family (R271, R272) -/

/-- Settles O48: the halve and the byte at HL are the two operands of one bit test. (The name is the
obligation's; the operation is `Machine.testBit`.) -/
theorem testBit : Obligations.TestBit := fun s _ =>
  ⟨fun _ => does_of_effect rfl rfl (testBit_effect _ _ s), does_of_effect rfl rfl (testBit_effect _ _ s)⟩

/-! ## The bytes say the status of a row (R97, R99 to R101) -/

/-- The status of the row that begins with `b0`, and goes on with `op2` where `b0` is the prefix byte (R96 to R100). -/
def statusOfBytes (b0 op2 : Byte) : RowStatus :=
  if b0 ∈ illegalBytes then .illegal
  else if b0 ∈ notInCoreBytes then .notInCore
  else if b0 = 0xCB ∧ 0x80 ≤ op2.toNat then .notInCore
  else .core

/-- The second byte matters after 0xCB only (R96). -/
theorem statusOfBytes_congr {b0 : Byte} (h : b0 ≠ 0xCB) (c c' : Byte) : statusOfBytes b0 c = statusOfBytes b0 c' := by
  simp only [statusOfBytes, h, false_and, if_false]

/-- The status column of the opcode table, read off the bytes of each row. -/
theorem status_eq_statusOfBytes {i : Instr} (hwf : i.wf = true) :
    i.status = statusOfBytes (opcodeByte i) ((encode i).getD 1 0) := by
  cases i with
  | prefixCB op2 => cases hwf
  -- two selectors in byte 0
  | ldrr dst src => cases dst <;> cases src <;> rfl
  -- a selector in the first or the second byte
  | ldrn r | ldrHL r | ldHLr r | incr r | decr r | addr r | adcr r | subr r | sbcr r | cpr r | andr r | orr r | xorr r
  | rlcr r | rrcr r | rlr r | rrr r | slar r | srar r | swapr r | srlr r => cases r <;> rfl
  | ldrrnn rr | addHLrr rr | pushrr rr | poprr rr | incrr rr | decrr rr => cases rr <;> rfl
  -- a condition code, a bit number or a reset address
  | jrcce cc | jpccnn cc | callccnn cc | retcc cc => obtain rfl | rfl | rfl | rfl := cc_cases cc <;> rfl
  | rstt t => obtain rfl | rfl | rfl | rfl | rfl | rfl | rfl | rfl := octal_cases t <;> rfl
  | bitbr b r =>
    revert b
    cases r <;> decide
  | bitbHL b =>
    revert b
    decide
  | resbr b r | setbr b r =>
    revert b r
    decide
  -- no field in the bytes that decide
  | _ => rfl

theorem opcodeByte_decode3 (b0 b1 b2 : Byte) : opcodeByte (decode3 b0 b1 b2) = b0 := by
  rw [opcodeByte, (hasBytes_decode3 b0 b1 b2).2]
  obtain h | h | h := lengthOf_cases b0 <;> simp [bytesRead, h]

/-- The bytes that are decoded say the status of the row they decode to. -/
theorem status_decode3 (b0 b1 b2 : Byte) : (decode3 b0 b1 b2).status = statusOfBytes b0 b1 := by
  obtain ⟨hwf, hbytes⟩ := hasBytes_decode3 b0 b1 b2
  rw [status_eq_statusOfBytes hwf, opcodeByte_decode3, hbytes]
  by_cases hcb : b0 = 0xCB
  · rw [hcb]
    rfl
  · exact statusOfBytes_congr hcb _ _

/-! ## The status of a row says its outcome (R280 to R282) -/

/-- A row of a byte that encodes nothing faults with that byte (R281). -/
theorem exec_of_illegal {i : Instr} (hi : i.status = .illegal) (s : State) : exec i s = illegalOpcode (opcodeByte i) := by
  cases i with
  | illegalD3 | illegalDB | illegalDD | illegalE3 | illegalE4 | illegalEB | illegalEC | illegalED | illegalF4 | illegalFC
  | illegalFD => rfl
  | _ => cases hi

/-- A row that is not in the block and has no prefix byte is refused with its byte 0 (R282). -/
theorem exec_of_notInCore {i : Instr} (hi : i.status = .notInCore) (hop : opcodeByte i ≠ 0xCB) (s : State) :
    exec i s = notInCore (opcodeByte i) := by
  cases i with
  | nop | stop | jre | jrcce | halt | jpnn | jpccnn | jpHL | callnn | callccnn | ret | retcc | reti | rstt | incrr | decrr
  | di | ei => rfl
  | resbr | setbr => exact absurd rfl hop
  | _ => cases hi

/-- From 0x80 on `op2` selects RES or SET, refused with `op2` (R282). -/
theorem exec_decodeCB_of_not_lt {op2 : Byte} (h : ¬ op2.toNat < 0x80) (s : State) :
    exec (decodeCB op2) s = notInCoreCB op2 :=
  (exec_prefixCB op2 s).symm.trans (prefixCBUnder_of_not_lt h .doc s)

/-- Settles O19: the bytes at PC say the status of the row they decode to, and the status says the outcome. -/
theorem decodeAloneFixesTheOutcome : Obligations.DecodeAloneFixesTheOutcome := by
  intro s
  have hstep : step s = exec (decode3 (s.memRead1 s.pc) (s.memRead1 (s.pc + 1)) (s.memRead1 (s.pc + 2))) s := rfl
  rw [hstep]
  generalize s.memRead1 s.pc = b0, s.memRead1 (s.pc + 1) = b1, s.memRead1 (s.pc + 2) = b2
  have hstatus := status_decode3 b0 b1 b2
  have hop := opcodeByte_decode3 b0 b1 b2
  unfold statusOfBytes at hstatus
  split_ifs at hstatus ⊢ with hill hnot hcb
  · rw [exec_of_illegal hstatus, hop, illegalOpcode]
  · have hne : b0 ≠ 0xCB := fun h => absurd (h ▸ hnot) (by decide)
    rw [exec_of_notInCore hstatus (hop.trans_ne hne), hop, notInCore]
  · obtain ⟨rfl, hhigh⟩ := hcb
    exact exec_decodeCB_of_not_lt (Nat.not_lt.2 hhigh) s
  · obtain ⟨t, ht, hpc⟩ := completes_of_core hstatus s
    rw [(hasBytes_decode3 b0 b1 b2).2, length_bytesRead] at hpc
    exact ⟨t, ht, hpc⟩

/-! ## Faults, refusals and completion -/

/-- The one case of `decodeAloneFixesTheOutcome` that is a fault is the illegal byte at PC (R281). -/
theorem step_eq_fault_iff (s : State) (op : Byte) :
    step s = .fault (.illegalOpcode op) ↔ s.memRead1 s.pc = op ∧ op ∈ illegalBytes := by
  have houtcome := decodeAloneFixesTheOutcome s
  constructor
  · intro hfault
    split_ifs at houtcome with hill
    · injection hfault.symm.trans houtcome with hreason
      injection hreason with hbyte
      exact ⟨hbyte.symm, hbyte ▸ hill⟩
    · cases hfault.symm.trans houtcome
    · cases hfault.symm.trans houtcome
    · obtain ⟨t, ht, -⟩ := houtcome
      cases hfault.symm.trans ht
  · rintro ⟨rfl, hill⟩
    rwa [if_pos hill] at houtcome

/-- Settles O50: each of the eleven rows is illegal, and faults with its opcode byte. -/
theorem illegalBytesFault : Obligations.IllegalBytesFault := by
  refine ⟨fun s => ⟨?_, ?_, ?_, ?_, ?_, ?_, ?_, ?_, ?_, ?_, ?_⟩, step_eq_fault_iff⟩
  all_goals exact exec_of_illegal rfl s

/-- Settles O51: the meaning of each row is the refusal with a byte of its own encoding. -/
theorem instructionsNotInTheBlockAreRefused : Obligations.InstructionsNotInTheBlockAreRefused := fun _ =>
  ⟨⟨rfl, rfl, rfl, rfl, rfl, rfl, rfl, rfl⟩, fun _ => rfl, fun _ => ⟨rfl, rfl⟩, fun _ _ _ => ⟨rfl, rfl, rfl, rfl⟩,
    fun _ => ⟨rfl, rfl⟩, fun _ _ => ⟨rfl, rfl, rfl⟩⟩

/-- Settles O52: a sum of words is the sum of their numbers mod 65536. -/
theorem coreInstructionsCompleteAndAdvancePC : Obligations.CoreInstructionsCompleteAndAdvancePC := by
  intro i s hi
  obtain ⟨t, ht, hpc⟩ := completes_of_core hi s
  refine ⟨t, ht, ?_⟩
  rw [hpc, BitVec.toNat_add, BitVec.toNat_ofNat, Nat.add_mod_mod]

/-! ## Reset (10_state.md R34, log entries 1 and 2) -/

/-- Settles O1: registers and flags are read off the chosen values, and an empty memory list reads 0x00 everywhere. -/
theorem resetLeavesTheChosenValues : Obligations.ResetLeavesTheChosenValues :=
  ⟨fun r => by cases r <;> rfl, fun f => by cases f <;> rfl, fun _ => rfl⟩

end Sys2Proof
